-- ==== Sys2Proof/Word.lean ====
section
/-! DEFINITION. The widths the spec names (00_scope.md glossary: nibble 4, byte 8, half-word 16, word 32 bits) and the
four-element sequence in which AES columns, AES states, LEA blocks, Piccolo states and 4×4 matrices are all written. -/

namespace Sys2Proof

/-- A register or bus word, 32 bits (`WORD` of R5). -/
abbrev Word := BitVec 32
/-- 16 bits. -/
abbrev HalfWord := BitVec 16
/-- 8 bits. -/
abbrev Byte := BitVec 8
/-- 4 bits. -/
abbrev Nibble := BitVec 4

/-- A sequence of four elements; `e0` is the first, which is the most significant one wherever the sequence denotes
a number (R7). -/
structure Quad (α : Type) where
  e0 : α
  e1 : α
  e2 : α
  e3 : α
deriving DecidableEq, Repr

/-- Apply `f` to each element. -/
def Quad.map {α β : Type} (f : α → β) (q : Quad α) : Quad β :=
  ⟨f q.e0, f q.e1, f q.e2, f q.e3⟩

/-- Combine two sequences element by element. -/
def Quad.zipWith {α β γ : Type} (f : α → β → γ) (p : Quad α) (q : Quad β) : Quad γ :=
  ⟨f p.e0 q.e0, f p.e1 q.e1, f p.e2 q.e2, f p.e3 q.e3⟩

/-- Element `i` of the sequence. -/
def Quad.get {α : Type} (q : Quad α) (i : Fin 4) : α :=
  match i with
  | 0 => q.e0
  | 1 => q.e1
  | 2 => q.e2
  | 3 => q.e3

end Sys2Proof
end

