-- ==== Sys2Proof/Config.lean ====
section
/-! DEFINITION. The parameters of R5 and the free values. A parameter with a value in R5 is a number here; a parameter
that R5 marks OPEN, and every value the spec leaves unspecified, is an `opaque` constant without a body, so that
nothing can be proved about which value it takes. -/

namespace Sys2Proof.Config

/-- `AES_ROUNDS` of R5 and R145: this hardware takes 10. The engine functions take it as an argument. -/
def aesRounds : Nat := 10

/-- `RKMEM_WORDS` of R5. -/
def rkmemWords : Nat := 256

/-- Size in bytes of the register window (R60). -/
def windowBytes : Nat := 0x1000

/-- The window's 4 KiB page number. OPEN (R5, D2): log entry 3. -/
opaque coreBasePage : Nat

/-- `CORE_BASE` of R5: any 4 KiB-aligned bus address. -/
def coreBase : Nat := coreBasePage * windowBytes

/-- The two byte-lane orders a bus can have (R62). -/
inductive Endian where
  | little
  | big
deriving DecidableEq, Repr, Inhabited

/-- `BUS_ENDIAN` of R62. OPEN, and no rule reads it: no definition of the model does either (log entry 3). -/
opaque busEndian : Endian

/-- One less than `LATENCY` of R5, R277 and R331, as a function of everything that LAT (R33) holds: the command word, key,
block, key length and block length. OPEN. R331 lets it depend on the operand values (D25) and does not list which; that
these are all five fields of LAT and nothing else is the model's choice (DESIGN CHOICE, log entry 16). -/
opaque latencyPred (cmd : Word) (key : BitVec 256) (blk : BitVec 128) (klen blen : BitVec 16) : Nat

/-- `LATENCY` of R5: a positive number of clock cycles. The model has no clock, so no step reads it (R277, R331; log
entry 2). What it may depend on: log entry 16. -/
def latency (cmd : Word) (key : BitVec 256) (blk : BitVec 128) (klen blen : BitVec 16) : Nat :=
  latencyPred cmd key blk klen blen + 1

/-- FREE VALUE. The `n`-th draw: the 32-bit value of a read that R36 or R276 leaves unspecified (log entries 4, 5). -/
opaque draw : Nat → Word

/-- FREE VALUE. What the CipherState register of R41 holds after a command (log entry 8). -/
opaque engineCipherState : Nat → BitVec 128

/-- FREE VALUE. What the round index of R41 holds after a command (log entry 8). -/
opaque engineRound : Nat → BitVec 6

/-- FREE VALUE. What the key-schedule register of R41 holds after a command (log entry 8). -/
opaque engineKeyReg : Nat → BitVec 256

/-- FREE VALUE. What the internal round-key buffer of R42 holds after a command (log entry 8). -/
opaque engineRkBuf : Nat → List Word

end Sys2Proof.Config
end

