-- ==== Sys2Proof/Machine/Bus.lean ====
section
/-! DEFINITION. What the outside world can do to the core: the transition system of R278 has bus reads, bus writes, the
internal completion step and reset, and nothing else. Also the names of the window's registers (R20, R91). -/

namespace Sys2Proof.Machine

/-- The width of a bus access. Only the 32-bit one is defined (R61). -/
inductive AccessSize where
  | bits8
  | bits16
  | bits32
  | bits64
deriving DecidableEq, Repr

/-- The registers of the window (R20). -/
inductive Reg where
  | cmd
  | status
  | keyLen
  | blkLen
  | rkCount
  | key (j : Fin 8)
  | blkIn (j : Fin 4)
  | blkOut (j : Fin 4)
  | rkmem (i : Fin 256)
  /-- Every offset the map does not list (R34). -/
  | reserved
deriving DecidableEq, Repr

/-- One step of R278 other than "nothing happens". Offsets count bytes from CORE_BASE (R10, R91). -/
inductive Event where
  /-- A bus read of the register at byte offset `off`: `MemRead(CORE_BASE + off, ·)` of R10. -/
  | read (size : AccessSize) (off : Nat)
  /-- A bus write of `v` at byte offset `off`: `MemWrite(CORE_BASE + off, ·, v)` of R10. -/
  | write (size : AccessSize) (off : Nat) (v : Word)
  /-- The internal completion step of R273. -/
  | complete
  /-- The platform's reset of R320. -/
  | reset
deriving DecidableEq, Repr

end Sys2Proof.Machine
end

