-- ==== Sys2Proof/Syntax.lean ====
section
/-! DEFINITION. The commands of CIPHER-CORE: one constructor for each of the thirteen rows of the command map (R83,
spec/opcode_table.json). A command word has no operand fields: its operands are registers, its variant is selected by
KEY_LEN (R80), so no constructor has an argument. -/

namespace Sys2Proof

/-- The commands of R83. -/
inductive Instr where
  /-- AES.ENC, R146. -/
  | aesEnc
  /-- AES.DEC, R147. -/
  | aesDec
  /-- AES.KS, R148. -/
  | aesKs
  /-- AES.FRB, R149. -/
  | aesFrb
  /-- PRESENT.ENC, R182. -/
  | presentEnc
  /-- PRESENT.DEC, R183. -/
  | presentDec
  /-- PRESENT.KS, R184. -/
  | presentKs
  /-- LEA.ENC, R211. -/
  | leaEnc
  /-- LEA.DEC, R212. -/
  | leaDec
  /-- LEA.KS, R213. -/
  | leaKs
  /-- PICCOLO.ENC, R244. -/
  | piccoloEnc
  /-- PICCOLO.DEC, R245. -/
  | piccoloDec
  /-- PICCOLO.KS, R246. -/
  | piccoloKs
deriving DecidableEq, Repr

/-- All commands, in the order of R83. -/
def Instr.all : List Instr :=
  [.aesEnc, .aesDec, .aesKs, .aesFrb, .presentEnc, .presentDec, .presentKs, .leaEnc, .leaDec, .leaKs,
   .piccoloEnc, .piccoloDec, .piccoloKs]

end Sys2Proof
end

