-- ==== Sys2Proof/WellFormed.lean ====
section
/-! DEFINITION. Well-formedness: of a command word's fields (R84), of a command, and of a bus access (R60, R61). -/

namespace Sys2Proof

/-- The fields of the one command format (R80). -/
structure CmdFields where
  /-- bits [31:8] -/
  rsvd : BitVec 24
  /-- bits [7:4] -/
  ciph : Nibble
  /-- bits [3:0] -/
  op : Nibble
deriving DecidableEq, Repr

/-- R84: which command words are valid. -/
def CmdFields.wf (f : CmdFields) : Bool :=
  f.rsvd == 0 && (1 ≤ f.op.toNat && f.op.toNat ≤ 4) && (1 ≤ f.ciph.toNat && f.ciph.toNat ≤ 4) &&
    (f.op.toNat != 4 || f.ciph.toNat == 1)

/-- A command has no operand fields (R80, R89), so there is nothing in it that could be ill-formed. -/
def Instr.wf (i : Instr) : Bool :=
  match i with
  | .aesEnc | .aesDec | .aesKs | .aesFrb => true
  | .presentEnc | .presentDec | .presentKs => true
  | .leaEnc | .leaDec | .leaKs => true
  | .piccoloEnc | .piccoloDec | .piccoloKs => true

namespace Machine

/-- R61: a defined access is 32 bits wide, at an offset that is a multiple of 4; R60: the window has 4 KiB. -/
def accessWf (size : AccessSize) (off : Nat) : Bool :=
  off < Config.windowBytes && (size == .bits32 && off % 4 == 0)

/-- The events the transition system of R278 admits: all but the accesses of its last row. -/
def Event.wf (e : Event) : Bool :=
  match e with
  | .read size off => accessWf size off
  | .write size off _ => accessWf size off
  | .complete => true
  | .reset => true

end Machine

end Sys2Proof
end

