-- ==== Sys2Proof/Decode.lean ====
section
/-! DEFINITION. Decoding a command word (R80 to R84, R90), total on all 2^32 words and rejecting by name; and after it the
encoder (R83). -/

namespace Sys2Proof

/-- Why a word is illegal (R84). All four reasons are reported as InvalidCommand (R291). -/
inductive Illegal where
  /-- bits [31:8] are not 0 -/
  | reservedBits
  /-- OP is 0 or 5 to 15 -/
  | reservedOp
  /-- CIPH is 0 or 5 to 15 -/
  | reservedCipher
  /-- OP is FRB and CIPH is not AES -/
  | frbNotAes
deriving DecidableEq, Repr

/-- The fields of a command word (R80). -/
def fieldsOf (c : Word) : CmdFields :=
  { rsvd := c.extractLsb' 8 24, ciph := c.extractLsb' 4 4, op := c.extractLsb' 0 4 }

/-- The word with these fields (R80). -/
def wordOf (f : CmdFields) : Word := f.rsvd ++ f.ciph ++ f.op

/-- R90 on a word whose reserved bits are 0: the row of R83 that CIPH and OP select. -/
def decodeRow (ciph op : Nat) : Except Illegal Instr :=
  match ciph, op with
  | 1, 1 => .ok .aesEnc
  | 1, 2 => .ok .aesDec
  | 1, 3 => .ok .aesKs
  | 1, 4 => .ok .aesFrb
  | 2, 1 => .ok .presentEnc
  | 2, 2 => .ok .presentDec
  | 2, 3 => .ok .presentKs
  | 3, 1 => .ok .leaEnc
  | 3, 2 => .ok .leaDec
  | 3, 3 => .ok .leaKs
  | 4, 1 => .ok .piccoloEnc
  | 4, 2 => .ok .piccoloDec
  | 4, 3 => .ok .piccoloKs
  | ciph, op =>
    .error (if op = 0 ∨ 4 < op then .reservedOp else if ciph = 0 ∨ 4 < ciph then .reservedCipher else .frbNotAes)

/-- R90. -/
def decode (c : Word) : Except Illegal Instr :=
  if (fieldsOf c).rsvd ≠ 0 then .error .reservedBits
  else decodeRow (fieldsOf c).ciph.toNat (fieldsOf c).op.toNat

/-- R82: the CIPH field of a command. -/
def Instr.ciphField (i : Instr) : Nibble :=
  match i with
  | .aesEnc | .aesDec | .aesKs | .aesFrb => 0x1
  | .presentEnc | .presentDec | .presentKs => 0x2
  | .leaEnc | .leaDec | .leaKs => 0x3
  | .piccoloEnc | .piccoloDec | .piccoloKs => 0x4

/-- R81: the OP field of a command. -/
def Instr.opField (i : Instr) : Nibble :=
  match i with
  | .aesEnc | .presentEnc | .leaEnc | .piccoloEnc => 0x1
  | .aesDec | .presentDec | .leaDec | .piccoloDec => 0x2
  | .aesKs | .presentKs | .leaKs | .piccoloKs => 0x3
  | .aesFrb => 0x4

/-- R83: the command word `(CIPH << 4) | OP` with RSVD = 0. -/
def encode (i : Instr) : Word := (i.ciphField.setWidth 32 <<< 4) ||| i.opField.setWidth 32

/-- The instruction the decoder reads from the first `nbits` bits of `w`, the bits above them 0: a command is exactly one
32-bit word (R89). -/
def decodeTableWord (nbits w : Nat) : Option Instr :=
  match decode (BitVec.ofNat 32 (w % 2 ^ nbits)) with
  | .ok i => some i
  | .error _ => none

end Sys2Proof
end

