-- ==== Sys2Proof/Machine/State.lean ====
section
/-! DEFINITION. The state of CIPHER-CORE (10_state.md) as plain data, the reasons a step can stop, and the state after reset
(R321). -/

namespace Sys2Proof.Machine

/-- A data register whose reset value is unspecified (R29 to R31). It holds a value always; `written` says whether the
value was put there since reset. Until then a read does not see `val` but a draw (R36, log entry 4). -/
structure DataWord where
  val : Word
  written : Bool
deriving DecidableEq, Repr

/-- The round-key memory RKMEM (R32) as pairs of a word index 0 to 255 and the word there, indexes strictly rising. The
smallest unit the bus can reach is the 32-bit word (R61), so a cell is a word (log entry 6). An index that is not listed
has not been written since reset and reads as a draw (R36). -/
abbrev Memory := List (Nat × Word)

/-- The canonical form of RKMEM: indexes strictly rising, and below 256. -/
abbrev Memory.wf (m : Memory) : Prop :=
  m.Pairwise (fun a b => a.1 < b.1) ∧ ∀ c ∈ m, c.1 < Config.rkmemWords

/-- The operand snapshot LAT (R33). `key` holds LAT.key as KEY0 ‖ … ‖ KEY7 and `blk` LAT.blk as BLK_IN0 ‖ … ‖ BLK_IN3,
word by word. -/
structure Latch where
  cmd : Word
  key : Vector Word 8
  blk : Vector Word 4
  klen : BitVec 16
  blen : BitVec 16
deriving DecidableEq, Repr

/-- The engine's hidden registers (R41) and its internal round-key buffer (R42). No rule reads them across a command
boundary, and no definition of the model reads them (log entry 8). -/
structure Engine where
  cipherState : BitVec 128
  round : BitVec 6
  keyReg : BitVec 256
  rkBuf : List Word
deriving DecidableEq, Repr

/-- The state of the machine. -/
structure State where
  /-- CMD, R21 -/
  cmd : Word
  /-- STATUS.BUSY, R22 -/
  busy : Bool
  /-- STATUS.DONE, R23 -/
  done : Bool
  /-- STATUS.ERR, R24 -/
  err : BitVec 4
  /-- KEY_LEN bits [15:0]; bits [31:16] read as 0, R26 -/
  keyLen : BitVec 16
  /-- BLK_LEN bits [15:0]; bits [31:16] read as 0, R27 -/
  blkLen : BitVec 16
  /-- RK_COUNT bits [15:0]; bits [31:16] read as 0, R28 -/
  rkCount : BitVec 16
  /-- KEY0 to KEY7, R29 -/
  key : Vector DataWord 8
  /-- BLK_IN0 to BLK_IN3, R30 -/
  blkIn : Vector DataWord 4
  /-- BLK_OUT0 to BLK_OUT3, R31 -/
  blkOut : Vector DataWord 4
  /-- RKMEM, R32 -/
  rkmem : Memory
  /-- LAT, R33 -/
  lat : Latch
  /-- Engine state and internal round-key buffer, R41 and R42 -/
  engine : Engine
  /-- The model's own: the events still to happen, next first (R67, R68, R278; log entry 1). -/
  inputs : List Event
  /-- The model's own: what bus reads returned to the host, newest first (log entry 1). -/
  replies : List Word
  /-- The model's own: how many free values have been taken (log entry 5). -/
  draws : Nat
deriving DecidableEq, Repr

/-- Why the machine stops with a fault. The spec gives the core no fault, trap or bus error (R295, R296, R299). -/
inductive Fault where
  /-- Raised by a bus read or write at an offset of 0x1000 or more: outside the core's one address space (R60), so not an
  access to the core at all. Safe: the model stops where some other device of the platform would answer. -/
  | outsideWindow
deriving DecidableEq, Repr

/-- Why the model has no step. -/
inductive Refusal where
  /-- No meaning is written for the instruction. Raised by no arm of `exec`: all thirteen have one. Safe. -/
  | notModelled (mnemonic : String)
  /-- Raised by a bus read or write that is not 32 bits wide or not at a multiple of 4: "a model refuses it (no step is
  admitted)" (R61). Safe. -/
  | undefinedAccess
deriving DecidableEq, Repr

/-- The outcome of a step of this machine. -/
abbrev Result := Host.Outcome State Fault Refusal

/-- A data register as reset leaves it: not written. Its `val` is never read; log entry 4 names it 0. -/
def DataWord.unwritten : DataWord := ⟨0, false⟩

/-- LAT as reset leaves it: irrelevant (R321); log entry 7 names 0. -/
def Latch.reset : Latch :=
  { cmd := 0, key := #v[0, 0, 0, 0, 0, 0, 0, 0], blk := #v[0, 0, 0, 0], klen := 0, blen := 0 }

/-- The engine as reset leaves it: irrelevant (R321); log entry 8 names 0 and the empty buffer. -/
def Engine.reset : Engine :=
  { cipherState := 0, round := 0, keyReg := 0, rkBuf := [] }

/-- R321: the state after reset. -/
def State.reset : State :=
  { cmd := 0
    busy := false
    done := false
    err := 0
    keyLen := 0
    blkLen := 0
    rkCount := 0
    key := #v[.unwritten, .unwritten, .unwritten, .unwritten, .unwritten, .unwritten, .unwritten, .unwritten]
    blkIn := #v[.unwritten, .unwritten, .unwritten, .unwritten]
    blkOut := #v[.unwritten, .unwritten, .unwritten, .unwritten]
    rkmem := []
    lat := .reset
    engine := .reset
    inputs := []
    replies := []
    draws := 0 }

end Sys2Proof.Machine
end

