-- ==== Sys2Proof/Machine/Flags.lean ====
section
/-! DEFINITION. The status flags (R22 to R25), the error codes (R290) and validation (R291, R292). No cipher operation has
any other flag (R38). -/

namespace Sys2Proof.Machine

/-- R290: the kinds of error. -/
inductive ErrorKind where
  | invalidBlockWidth
  | invalidKeyWidth
  /-- Never reported: every register bit is 0 or 1 (R112, R294). Its code is reserved. -/
  | malformedBitVector
  | invalidCommand
deriving DecidableEq, Repr

/-- R290: the code of an error. -/
def ErrorKind.code (e : ErrorKind) : BitVec 4 :=
  match e with
  | .invalidBlockWidth => 1
  | .invalidKeyWidth => 2
  | .malformedBitVector => 3
  | .invalidCommand => 4

/-- R22 to R25: STATUS as the bus reads it. Bits [3:2] and [31:8] are 0. -/
def State.statusWord (s : State) : Word :=
  (s.err.setWidth 32 <<< 4) ||| ((BitVec.ofBool s.done).setWidth 32 <<< 1) ||| (BitVec.ofBool s.busy).setWidth 32

/-- R292, column BLOCKS: the block lengths a command accepts; none where BLK_LEN is not checked. -/
def blockLengths (i : Instr) : Option (List Nat) :=
  match i with
  | .aesEnc => some [128]
  | .aesDec => some [128]
  | .aesKs => none
  | .aesFrb => some [8]
  | .presentEnc => some [64]
  | .presentDec => some [64]
  | .presentKs => none
  | .leaEnc => some [128]
  | .leaDec => some [128]
  | .leaKs => none
  | .piccoloEnc => some [64]
  | .piccoloDec => some [64]
  | .piccoloKs => none

/-- R292, column KEYS: the key lengths a command accepts. -/
def keyLengths (i : Instr) : List Nat :=
  match i with
  | .aesEnc => [128]
  | .aesDec => [128]
  | .aesKs => [128]
  | .aesFrb => [8]
  | .presentEnc => [80]
  | .presentDec => [80]
  | .presentKs => [80]
  | .leaEnc => [128, 192, 256]
  | .leaDec => [128, 192, 256]
  | .leaKs => [128, 192, 256]
  | .piccoloEnc => [80, 128]
  | .piccoloDec => [80, 128]
  | .piccoloKs => [80, 128]

/-- R291: whether the snapshot's block length is one the command accepts. -/
def blockLengthOk (i : Instr) (lat : Latch) : Bool :=
  match blockLengths i with
  | none => true
  | some ls => ls.contains lat.blen.toNat

/-- R291: whether the snapshot's key length is one the command accepts. -/
def keyLengthOk (i : Instr) (lat : Latch) : Bool := (keyLengths i).contains lat.klen.toNat

/-- R291 after the command word has been decoded: the block length is checked first, then the key length. -/
def validateLengths (i : Instr) (lat : Latch) : Option ErrorKind :=
  if !blockLengthOk i lat then some .invalidBlockWidth
  else if !keyLengthOk i lat then some .invalidKeyWidth
  else none

/-- R291: the first failing check, or none. -/
def validate (lat : Latch) : Option ErrorKind :=
  match decode lat.cmd with
  | .error _ => some .invalidCommand
  | .ok i => validateLengths i lat

end Sys2Proof.Machine
end

