-- ==== Sys2Proof/Machine/Prims.lean ====
section
/-! DEFINITION. The shared arithmetic primitives of 40_primitives.md (R100 to R112): rotations, modular arithmetic,
finite-field multiplication, the 4×4 matrix product, and splitting and joining of values. None writes a flag or
raises an error. -/

namespace Sys2Proof.Machine

/-- R100: rotate left, the amount taken modulo the width. -/
def rol {w : Nat} (x : BitVec w) (n : Nat) : BitVec w :=
  (x <<< (n % w)) ||| (x >>> (w - n % w))

/-- R101: rotate right, as a left rotation by the complementary amount. -/
def ror {w : Nat} (x : BitVec w) (n : Nat) : BitVec w :=
  rol x ((w - n % w) % w)

/-- R103: addition modulo 2^32; the carry is not recorded. -/
def add32 (a b : Word) : Word := a + b

/-- R104: subtraction modulo 2^32; no borrow is recorded. -/
def sub32 (a b : Word) : Word := a - b

/-- R107: multiplication by x in GF(2^8) modulo 0x11B. The pseudocode's 9-bit intermediate is reduced by 0x11B exactly
when bit 7 of `a` is set, and its bit 8 is then cleared by the reduction. -/
def xtime8 (a : Byte) : Byte :=
  (a <<< 1) ^^^ (if a.getLsbD 7 then 0x1B#8 else 0#8)

/-- The loop of R106, `n` iterations left. -/
def gmul8Loop : Nat → Byte → Byte → Byte → Byte
  | 0, _, _, p => p
  | n + 1, a, b, p => gmul8Loop n (xtime8 a) (b >>> 1) (if b.getLsbD 0 then p ^^^ a else p)

/-- R106: multiplication in GF(2^8) with reduction polynomial 0x11B. -/
def gmul8 (a b : Byte) : Byte := gmul8Loop 8 a b 0

/-- One shift-and-reduce of R108: multiplication by x in GF(2^4) modulo 0x13. -/
def xtime4 (a : Nibble) : Nibble :=
  (a <<< 1) ^^^ (if a.getLsbD 3 then 0x3#4 else 0#4)

/-- The loop of R108, `n` iterations left. -/
def gmul4Loop : Nat → Nibble → Nibble → Nibble → Nibble
  | 0, _, _, p => p
  | n + 1, a, b, p => gmul4Loop n (xtime4 a) (b >>> 1) (if b.getLsbD 0 then p ^^^ a else p)

/-- R108: multiplication in GF(2^4) with reduction polynomial 0x13. -/
def gmul4 (a b : Nibble) : Nibble := gmul4Loop 4 a b 0

/-- One row of R109. -/
def dotRow {w : Nat} (mul : BitVec w → BitVec w → BitVec w) (row v : Quad (BitVec w)) : BitVec w :=
  mul row.e0 v.e0 ^^^ mul row.e1 v.e1 ^^^ mul row.e2 v.e2 ^^^ mul row.e3 v.e3

/-- R109: product of a 4×4 matrix of constants (a sequence of rows) by a column. -/
def matmul {w : Nat} (mul : BitVec w → BitVec w → BitVec w) (M : Quad (Quad (BitVec w))) (v : Quad (BitVec w)) :
    Quad (BitVec w) :=
  M.map fun row => dotRow mul row v

/-- R110: the bit sequence of a value, first element most significant. -/
def intToBits {w : Nat} (v : BitVec w) : List Bool :=
  (List.range w).map fun j => v.getLsbD (w - 1 - j)

/-- R110: the value of a bit sequence, first element most significant. -/
def bitsToInt : List Bool → Nat
  | [] => 0
  | b :: bs => b.toNat * 2 ^ bs.length + bitsToInt bs

/-- R111: the four `e`-bit elements of a value of `4·e` bits, element 0 most significant. -/
def split4 (e : Nat) {w : Nat} (v : BitVec w) : Quad (BitVec e) :=
  ⟨v.extractLsb' (3 * e) e, v.extractLsb' (2 * e) e, v.extractLsb' e e, v.extractLsb' 0 e⟩

/-- R111: `join_4` of four nibbles. -/
def join4 (q : Quad Nibble) : HalfWord := q.e0 ++ q.e1 ++ q.e2 ++ q.e3
/-- R111: `join_8` of four bytes. -/
def join8 (q : Quad Byte) : Word := q.e0 ++ q.e1 ++ q.e2 ++ q.e3
/-- R111: `join_16` of four half-words. -/
def join16 (q : Quad HalfWord) : BitVec 64 := q.e0 ++ q.e1 ++ q.e2 ++ q.e3
/-- R111: `join_32` of four words. -/
def join32 (q : Quad Word) : BitVec 128 := q.e0 ++ q.e1 ++ q.e2 ++ q.e3

/-- R111 for a sequence of `n` elements of `e` bits each, as a list, element 0 most significant. -/
def splitList (e n : Nat) {w : Nat} (v : BitVec w) : List (BitVec e) :=
  (List.range n).map fun i => v.extractLsb' (e * (n - 1 - i)) e

/-- Entry `i` of a table of `2^k` entries of `e` bits written as one number, entry 0 most significant, as the spec's
tables are read from left to right. -/
def tableEntry (e : Nat) {w : Nat} (row : BitVec w) (i : Nat) : BitVec e :=
  row.extractLsb' (w - e - e * i) e

end Sys2Proof.Machine
end

