-- ==== Sys2Proof/Machine/Operands.lean ====
section
/-! DEFINITION. Where operands are: the register map (R20), the value a data register gives when it is sampled (R36), the
assembly of the key and block operands from the snapshot (R85, R86) and the placement of a result (R87). -/

namespace Sys2Proof.Machine

/-- R20: the register at byte offset `off` of the window; an offset that is not listed is reserved. -/
def regAt (off : Nat) : Reg :=
  if off = 0x000 then .cmd
  else if off = 0x004 then .status
  else if off = 0x008 then .keyLen
  else if off = 0x00C then .blkLen
  else if off = 0x010 then .rkCount
  else if h : 0x020 ≤ off ∧ off < 0x040 then .key ⟨(off - 0x020) / 4, by omega⟩
  else if h : 0x040 ≤ off ∧ off < 0x050 then .blkIn ⟨(off - 0x040) / 4, by omega⟩
  else if h : 0x050 ≤ off ∧ off < 0x060 then .blkOut ⟨(off - 0x050) / 4, by omega⟩
  else if h : 0x400 ≤ off ∧ off < 0x800 then .rkmem ⟨(off - 0x400) / 4, by omega⟩
  else .reserved

/-- R91: the offset a register's name stands for. The reserved offsets have no name; the first of them stands for all. -/
def Reg.offset (r : Reg) : Nat :=
  match r with
  | .cmd => 0x000
  | .status => 0x004
  | .keyLen => 0x008
  | .blkLen => 0x00C
  | .rkCount => 0x010
  | .key j => 0x020 + 4 * j.val
  | .blkIn j => 0x040 + 4 * j.val
  | .blkOut j => 0x050 + 4 * j.val
  | .rkmem i => 0x400 + 4 * i.val
  | .reserved => 0x014

/-- R60: the window offset of a bus address, for a window whose base is `base`; none outside the window. -/
def busOffset (base addr : Nat) : Option Nat :=
  if base ≤ addr ∧ addr < base + Config.windowBytes then some (addr - base) else none

/-- R62: the bus address of a window offset. -/
def busAddress (base off : Nat) : Nat := base + off

/-- What a data register holds as far as the spec says: nothing, until it is written (R36). -/
def DataWord.known (r : DataWord) : Option Word := if r.written then some r.val else none

/-- The value sampled from a data register: its value once written, before that the draw numbered `n` (R36). -/
def DataWord.sample (r : DataWord) (n : Nat) : Word := if r.written then r.val else Config.draw n

/-- A data register into which `v` was written. -/
def DataWord.of (v : Word) : DataWord := ⟨v, true⟩

/-- `LAT.key`, 256 bits, KEY0 most significant (R29, R33). -/
def Latch.keyReg (lat : Latch) : BitVec 256 :=
  lat.key[0] ++ lat.key[1] ++ lat.key[2] ++ lat.key[3] ++ lat.key[4] ++ lat.key[5] ++ lat.key[6] ++ lat.key[7]

/-- `LAT.blk`, 128 bits, BLK_IN0 most significant (R30, R33). -/
def Latch.blkReg (lat : Latch) : BitVec 128 :=
  lat.blk[0] ++ lat.blk[1] ++ lat.blk[2] ++ lat.blk[3]

/-- The first `L` bits of a sequence of words, counting from bit 31 of the first word, as a number. Words beyond the
first `L` bits are not looked at. -/
def firstBits : List Word → Nat → Nat
  | [], _ => 0
  | w :: ws, L =>
    if L ≤ 32 then w.toNat >>> (32 - L) else (w.toNat <<< (L - 32)) ||| firstBits ws (L - 32)

/-- R85: the key operand `K = LAT.key[255 : 256-L]`. -/
def keyOperand (L : Nat) (lat : Latch) : BitVec L := BitVec.ofNat L (firstBits lat.key.toList L)

/-- R86: the block operand `B = LAT.blk[127 : 128-W]`. -/
def blkOperand (W : Nat) (lat : Latch) : BitVec W := BitVec.ofNat W (firstBits lat.blk.toList W)

/-- R87: `R ‖ 0^(128-W)`. -/
def placeResult {W : Nat} (R : BitVec W) : BitVec 128 := R.setWidth 128 <<< (128 - W)

/-- The four BLK_OUT registers that hold a 128-bit value (R31). -/
def outRegs (v : BitVec 128) : Vector DataWord 4 :=
  #v[.of (v.extractLsb' 96 32), .of (v.extractLsb' 64 32), .of (v.extractLsb' 32 32), .of (v.extractLsb' 0 32)]

/-- The words of a sequence of 64-bit values, most significant word first (R184). -/
def words64 (vs : List (BitVec 64)) : List Word :=
  vs.flatMap fun v => [v.extractLsb' 32 32, v.extractLsb' 0 32]

/-- The words of a sequence of 128-bit values, most significant word first (R148). -/
def words128 (vs : List (BitVec 128)) : List Word :=
  vs.flatMap fun v => [v.extractLsb' 96 32, v.extractLsb' 64 32, v.extractLsb' 32 32, v.extractLsb' 0 32]

end Sys2Proof.Machine
end

