-- ==== Sys2Proof/Machine/Ops.lean ====
section
/-! DEFINITION. The named operations over the state: round-key memory, bus reads and writes (10_state.md, 20_memory.md),
acceptance of a command (R270), raising an error (R11, R293), the successful completion (R273) and reset (R320 to R322).
Every access to a register goes through one of them. -/

namespace Sys2Proof.Machine

/-- Word `i` of RKMEM: none if nothing was written there since reset (R36). -/
def Memory.get (m : Memory) (i : Nat) : Option Word := (m.find? fun c => c.1 == i).map Prod.snd

/-- The cells of a sequence of words stored from index `i` on. -/
def Memory.cellsFrom : Nat → List Word → Memory
  | _, [] => []
  | i, w :: ws => (i, w) :: Memory.cellsFrom (i + 1) ws

/-- R32: a KS command writes words `0 .. n-1` and leaves words `n .. 255` unchanged. RKMEM has no word beyond 255; the
longest schedule has 192 (D21). -/
def Memory.writeFront (m : Memory) (ws : List Word) : Memory :=
  Memory.cellsFrom 0 (ws.take Config.rkmemWords) ++ m.filter fun c => ws.length ≤ c.1

/-- What a bus read of a register returns; none where the value is unspecified: a data register not written since reset
(R36), and BLK_OUT or RKMEM while BUSY = 1 (R276). -/
def State.readReg (s : State) (r : Reg) : Option Word :=
  match r with
  | .cmd => some s.cmd
  | .status => some s.statusWord
  | .keyLen => some (s.keyLen.setWidth 32)
  | .blkLen => some (s.blkLen.setWidth 32)
  | .rkCount => some (s.rkCount.setWidth 32)
  | .key j => s.key[j.val].known
  | .blkIn j => s.blkIn[j.val].known
  | .blkOut j => if s.busy then none else s.blkOut[j.val].known
  | .rkmem i => if s.busy then none else Memory.get s.rkmem i.val
  | .reserved => some 0

/-- Return to the host the value of a read, or a fresh draw where the value is unspecified (R36). -/
def State.reply (s : State) (v : Option Word) : State :=
  match v with
  | some v => { s with replies := v :: s.replies }
  | none => { s with replies := Config.draw s.draws :: s.replies, draws := s.draws + 1 }

/-- R33: the snapshot of the operands for the command word `v`. A register not written since reset is sampled as a draw
(R36; log entry 4). -/
def State.snapshot (s : State) (v : Word) : Latch :=
  { cmd := v
    key := #v[s.key[0].sample s.draws, s.key[1].sample (s.draws + 1), s.key[2].sample (s.draws + 2),
      s.key[3].sample (s.draws + 3), s.key[4].sample (s.draws + 4), s.key[5].sample (s.draws + 5),
      s.key[6].sample (s.draws + 6), s.key[7].sample (s.draws + 7)]
    blk := #v[s.blkIn[0].sample (s.draws + 8), s.blkIn[1].sample (s.draws + 9), s.blkIn[2].sample (s.draws + 10),
      s.blkIn[3].sample (s.draws + 11)]
    klen := s.keyLen
    blen := s.blkLen }

/-- R270: acceptance of a command word, whatever it is. Twelve draws are set aside for the twelve sampled registers. -/
def State.accept (s : State) (v : Word) : State :=
  { s with cmd := v, lat := s.snapshot v, busy := true, done := false, err := 0, draws := s.draws + 12 }

/-- A bus write of `v` to a register. CMD: accepted while BUSY = 0 (R270), ignored while BUSY = 1 (R271). The input
registers store it, at any time (R26, R27, R29, R30, R275). Every other register ignores it (R25, R28, R31, R32, R34). -/
def State.writeReg (s : State) (r : Reg) (v : Word) : State :=
  match r with
  | .cmd => if s.busy then s else s.accept v
  | .status => s
  | .keyLen => { s with keyLen := v.setWidth 16 }
  | .blkLen => { s with blkLen := v.setWidth 16 }
  | .rkCount => s
  | .key j => { s with key := s.key.set j.val (.of v) }
  | .blkIn j => { s with blkIn := s.blkIn.set j.val (.of v) }
  | .blkOut _ => s
  | .rkmem _ => s
  | .reserved => s

/-- A bus read (R60, R61, R65). -/
def State.busRead (s : State) (size : AccessSize) (off : Nat) : Result :=
  if Config.windowBytes ≤ off then .fault .outsideWindow
  else if accessWf size off then .next (s.reply (s.readReg (regAt off)))
  else .refused .undefinedAccess

/-- A bus write (R60, R61, R65). -/
def State.busWrite (s : State) (size : AccessSize) (off : Nat) (v : Word) : Result :=
  if Config.windowBytes ≤ off then .fault .outsideWindow
  else if accessWf size off then .next (s.writeReg (regAt off) v)
  else .refused .undefinedAccess

/-- R11, R293: the error outcome. This is the one way the core reports an exceptional condition: it transfers no control,
saves nothing and changes no mode (R299), and there is no return operation beside it (R300): DONE and ERR are cleared
by `State.accept` and `State.resetCore`. -/
def State.raiseError (s : State) (e : ErrorKind) : State :=
  { s with busy := false, done := true, err := e.code }

/-- R273 with `e = 0`: STATUS after a successful command. The engine's hidden registers are left with free values (R41,
R42; log entry 8). -/
def State.succeed (s : State) : State :=
  { s with
    busy := false
    done := true
    err := 0
    engine :=
      { cipherState := Config.engineCipherState s.draws
        round := Config.engineRound s.draws
        keyReg := Config.engineKeyReg s.draws
        rkBuf := Config.engineRkBuf s.draws }
    draws := s.draws + 1 }

/-- R87: a successful ENC, DEC or FRB command writes OUTREG. -/
def State.writeOut {W : Nat} (s : State) (R : BitVec W) : State :=
  { s with blkOut := outRegs (placeResult R) }

/-- R28, R32: a successful KS command writes RKMEM[0 .. n-1] and RK_COUNT. -/
def State.writeRoundKeys (s : State) (ws : List Word) : State :=
  { s with rkmem := Memory.writeFront s.rkmem ws, rkCount := BitVec.ofNat 16 ws.length }

/-- R273 for a command whose word decoded to `i`: validate the lengths, then either report the error and change nothing
else, or perform `execute` and report success. -/
def State.completeCommand (s : State) (i : Instr) (execute : State → State) : State :=
  match validateLengths i s.lat with
  | some e => s.raiseError e
  | none => (execute s).succeed

/-- R320 to R322: reset, in any state. The pending events, the host's record and the draw counter are the model's own and
are kept. -/
def State.resetCore (s : State) : State :=
  { State.reset with inputs := s.inputs, replies := s.replies, draws := s.draws }

end Sys2Proof.Machine
end

