-- ==== Sys2Proof/Machine/Aes.lean ====
section
/-! DEFINITION. The AES-128 engine (41_aes.md R130 to R145) and the meanings of AES.ENC, AES.DEC, AES.KS and AES.FRB
(R146 to R149). The number of rounds `R` is an argument of the engine functions (R145); the commands use
`Config.aesRounds`. -/

namespace Sys2Proof.Machine

/-- R130: the rows of `SBOX`, row = high nibble; the sixteen bytes of a row are written from left to right. -/
def aesSboxRow (hi : Nat) : BitVec 128 :=
  match hi with
  | 0x0 => 0x637c777bf26b6fc53001672bfed7ab76
  | 0x1 => 0xca82c97dfa5947f0add4a2af9ca472c0
  | 0x2 => 0xb7fd9326363ff7cc34a5e5f171d83115
  | 0x3 => 0x04c723c31896059a071280e2eb27b275
  | 0x4 => 0x09832c1a1b6e5aa0523bd6b329e32f84
  | 0x5 => 0x53d100ed20fcb15b6acbbe394a4c58cf
  | 0x6 => 0xd0efaafb434d338545f9027f503c9fa8
  | 0x7 => 0x51a3408f929d38f5bcb6da2110fff3d2
  | 0x8 => 0xcd0c13ec5f974417c4a77e3d645d1973
  | 0x9 => 0x60814fdc222a908846eeb814de5e0bdb
  | 0xA => 0xe0323a0a4906245cc2d3ac629195e479
  | 0xB => 0xe7c8376d8dd54ea96c56f4ea657aae08
  | 0xC => 0xba78252e1ca6b4c6e8dd741f4bbd8b8a
  | 0xD => 0x703eb5664803f60e613557b986c11d9e
  | 0xE => 0xe1f8981169d98e949b1e87e9ce5528df
  | _   => 0x8ca1890dbfe6426841992d0fb054bb16

/-- R130: `SBOX[x]`. -/
def aesSbox (x : Byte) : Byte := tableEntry 8 (aesSboxRow (x.toNat / 16)) (x.toNat % 16)

/-- R132: the rows of `INV_SBOX`, row = high nibble. -/
def aesInvSboxRow (hi : Nat) : BitVec 128 :=
  match hi with
  | 0x0 => 0x52096ad53036a538bf40a39e81f3d7fb
  | 0x1 => 0x7ce339829b2fff87348e4344c4dee9cb
  | 0x2 => 0x547b9432a6c2233dee4c950b42fac34e
  | 0x3 => 0x082ea16628d924b2765ba2496d8bd125
  | 0x4 => 0x72f8f66486689816d4a45ccc5d65b692
  | 0x5 => 0x6c704850fdedb9da5e154657a78d9d84
  | 0x6 => 0x90d8ab008cbcd30af7e45805b8b34506
  | 0x7 => 0xd02c1e8fca3f0f02c1afbd0301138a6b
  | 0x8 => 0x3a9111414f67dcea97f2cfcef0b4e673
  | 0x9 => 0x96ac7422e7ad3585e2f937e81c75df6e
  | 0xA => 0x47f11a711d29c5896fb7620eaa18be1b
  | 0xB => 0xfc563e4bc6d279209adbc0fe78cd5af4
  | 0xC => 0x1fdda8338807c731b11210592780ec5f
  | 0xD => 0x60517fa919b54a0d2de57a9f93c99cef
  | 0xE => 0xa0e03b4dae2af5b0c8ebbb3c83539961
  | _   => 0x172b047eba77d626e169146355210c7d

/-- R132: `INV_SBOX[y]`. -/
def aesInvSbox (y : Byte) : Byte := tableEntry 8 (aesInvSboxRow (y.toNat / 16)) (y.toNat % 16)

/-- R133: the AES state as its four columns, each four bytes from row 0 to row 3. -/
abbrev AesState := Quad (Quad Byte)

/-- R133: `s[r][c]`. -/
def aesAt (s : AesState) (r c : Fin 4) : Byte := (s.get c).get r

/-- R133: the state of a block; the first four bytes form column 0. -/
def aesState (B : BitVec 128) : AesState := (split4 32 B).map (split4 8)

/-- R133: the block of a state. -/
def aesBlock (s : AesState) : BitVec 128 := join32 (s.map join8)

/-- R134. -/
def subBytes (s : AesState) : AesState := s.map (Quad.map aesSbox)

/-- R135. -/
def invSubBytes (s : AesState) : AesState := s.map (Quad.map aesInvSbox)

/-- R136: row `r` is shifted left by `r`; written out column by column. -/
def shiftRows (s : AesState) : AesState :=
  ⟨⟨s.e0.e0, s.e1.e1, s.e2.e2, s.e3.e3⟩,
   ⟨s.e1.e0, s.e2.e1, s.e3.e2, s.e0.e3⟩,
   ⟨s.e2.e0, s.e3.e1, s.e0.e2, s.e1.e3⟩,
   ⟨s.e3.e0, s.e0.e1, s.e1.e2, s.e2.e3⟩⟩

/-- R137: row `r` is shifted right by `r`; written out column by column. -/
def invShiftRows (s : AesState) : AesState :=
  ⟨⟨s.e0.e0, s.e3.e1, s.e2.e2, s.e1.e3⟩,
   ⟨s.e1.e0, s.e0.e1, s.e3.e2, s.e2.e3⟩,
   ⟨s.e2.e0, s.e1.e1, s.e0.e2, s.e3.e3⟩,
   ⟨s.e3.e0, s.e2.e1, s.e1.e2, s.e0.e3⟩⟩

/-- R138: the matrix `MIX`. -/
def aesMix : Quad (Quad Byte) := ⟨⟨2, 3, 1, 1⟩, ⟨1, 2, 3, 1⟩, ⟨1, 1, 2, 3⟩, ⟨3, 1, 1, 2⟩⟩

/-- R138. -/
def mixColumns (s : AesState) : AesState := s.map (matmul gmul8 aesMix)

/-- R139: the matrix `INVMIX`. -/
def aesInvMix : Quad (Quad Byte) := ⟨⟨14, 11, 13, 9⟩, ⟨9, 14, 11, 13⟩, ⟨13, 9, 14, 11⟩, ⟨11, 13, 9, 14⟩⟩

/-- R139. -/
def invMixColumns (s : AesState) : AesState := s.map (matmul gmul8 aesInvMix)

/-- R140. -/
def aesAddRoundKey (s : AesState) (rk : BitVec 128) : AesState :=
  Quad.zipWith (Quad.zipWith fun a b => a ^^^ b) s (aesState rk)

/-- R141: the round constant `rc_i`, for `i` from 1 on. -/
def aesRc : Nat → Byte
  | 0 => 0x01
  | 1 => 0x01
  | i + 1 => xtime8 (aesRc i)

/-- R142: one pass of the loop, from the words of round key `i-1` to those of round key `i`, with `rc = rc_i`. -/
def aesNextKey (rc : Byte) (w : Quad Word) : Quad Word :=
  let t := join8 ((split4 8 (rol w.e3 8)).map aesSbox) ^^^ (rc.setWidth 32 <<< 24)
  let w0 := w.e0 ^^^ t
  let w1 := w.e1 ^^^ w0
  let w2 := w.e2 ^^^ w1
  let w3 := w.e3 ^^^ w2
  ⟨w0, w1, w2, w3⟩

/-- R142: the `n` round keys `RK_i, RK_{i+1}, …` that follow the round key whose words are `w`. -/
def aesExpand : (n i : Nat) → Quad Word → List (BitVec 128)
  | 0, _, _ => []
  | n + 1, i, w =>
    let w' := aesNextKey (aesRc i) w
    join32 w' :: aesExpand n (i + 1) w'

/-- R142: `AES_KeySchedule(k)`, the round keys `RK_0 .. RK_R`. -/
def aesKeySchedule (R : Nat) (k : BitVec 128) : List (BitVec 128) :=
  k :: aesExpand R 1 (split4 32 k)

/-- R143: the rounds for the given round keys; the last one omits MixColumns. -/
def aesEncRounds : List (BitVec 128) → AesState → AesState
  | [], s => s
  | [rk], s => aesAddRoundKey (shiftRows (subBytes s)) rk
  | rk :: rks, s => aesEncRounds rks (aesAddRoundKey (mixColumns (shiftRows (subBytes s))) rk)

/-- R143: `AES_Encrypt(p, k)` with `R` rounds. -/
def aesEncrypt (R : Nat) (p k : BitVec 128) : BitVec 128 :=
  match aesKeySchedule R k with
  | [] => p
  | rk0 :: rks => aesBlock (aesEncRounds rks (aesAddRoundKey (aesState p) rk0))

/-- R144: what follows the first line, for the round keys `RK_{R-1} .. RK_0` in this order. -/
def aesDecRounds : List (BitVec 128) → AesState → AesState
  | [], s => s
  | [rk0], s => aesAddRoundKey s rk0
  | rk :: rks, s => aesDecRounds rks (invSubBytes (invShiftRows (invMixColumns (aesAddRoundKey s rk))))

/-- R144: `AES_Decrypt(c, k)` with `R` rounds. -/
def aesDecrypt (R : Nat) (c k : BitVec 128) : BitVec 128 :=
  match (aesKeySchedule R k).reverse with
  | [] => c
  | rkR :: rks => aesBlock (aesDecRounds rks (invSubBytes (invShiftRows (aesAddRoundKey (aesState c) rkR))))

/-- R149: `firstRoundByte`: AddRoundKey then SubBytes on one byte. -/
def aesFirstRoundByte (p k : Byte) : Byte := aesSbox (p ^^^ k)

/-- AES.ENC, R146. -/
def execAesEnc (s : State) : Result :=
  .next (s.completeCommand .aesEnc fun s =>
    s.writeOut (aesEncrypt Config.aesRounds (blkOperand 128 s.lat) (keyOperand 128 s.lat)))

/-- AES.DEC, R147. -/
def execAesDec (s : State) : Result :=
  .next (s.completeCommand .aesDec fun s =>
    s.writeOut (aesDecrypt Config.aesRounds (blkOperand 128 s.lat) (keyOperand 128 s.lat)))

/-- AES.KS, R148. -/
def execAesKs (s : State) : Result :=
  .next (s.completeCommand .aesKs fun s =>
    s.writeRoundKeys (words128 (aesKeySchedule Config.aesRounds (keyOperand 128 s.lat))))

/-- AES.FRB, R149. -/
def execAesFrb (s : State) : Result :=
  .next (s.completeCommand .aesFrb fun s =>
    s.writeOut (aesFirstRoundByte (blkOperand 8 s.lat) (keyOperand 8 s.lat)))

end Sys2Proof.Machine
end

