-- ==== Sys2Proof/Machine/Lea.lean ====
section
/-! DEFINITION. The LEA engine with 128-, 192- and 256-bit keys (43_lea.md R200 to R209) and the meanings of LEA.ENC, LEA.DEC
and LEA.KS (R211 to R213). -/

namespace Sys2Proof.Machine

/-- R200: the delta constants `δ[0] .. δ[7]`. -/
def leaDelta (j : Nat) : Word :=
  match j with
  | 0 => 0xc3efe9db
  | 1 => 0x44626b02
  | 2 => 0x79e27c8a
  | 3 => 0x78df30ec
  | 4 => 0x715ea49e
  | 5 => 0xc785da0a
  | 6 => 0xe04ef22a
  | _ => 0xe5c40957

/-- A round key, six words. -/
structure LeaRoundKey where
  k0 : Word
  k1 : Word
  k2 : Word
  k3 : Word
  k4 : Word
  k5 : Word
deriving DecidableEq, Repr

/-- The six words of a round key, in order (R213). -/
def LeaRoundKey.words (rk : LeaRoundKey) : List Word := [rk.k0, rk.k1, rk.k2, rk.k3, rk.k4, rk.k5]

/-- R203, R204: the fixed rotation amounts `s = (1, 3, 6, 11, 13, 17)`; R202 uses the first four. -/
def leaShift (j : Nat) : Nat :=
  match j with
  | 0 => 1
  | 1 => 3
  | 2 => 6
  | 3 => 11
  | 4 => 13
  | _ => 17

/-- The update all three schedules share: `T[m] <- rol(add32(T[m], rol(d, i+j, 32)), s[j], 32)`. -/
def leaUpdate (d : Word) (i : Nat) (T : List Word) (m j : Nat) : List Word :=
  T.set m (rol (add32 (T.getD m 0) (rol d (i + j))) (leaShift j))

/-- R202: the four updates of round `i`. -/
def lea128Update (i : Nat) (T : List Word) : List Word :=
  [0, 1, 2, 3].foldl (fun T j => leaUpdate (leaDelta (i % 4)) i T j j) T

/-- R203: the six updates of round `i`. -/
def lea192Update (i : Nat) (T : List Word) : List Word :=
  [0, 1, 2, 3, 4, 5].foldl (fun T j => leaUpdate (leaDelta (i % 6)) i T j j) T

/-- R204: the six updates of round `i`, on the words `(6i + j) mod 8`. -/
def lea256Update (i : Nat) (T : List Word) : List Word :=
  [0, 1, 2, 3, 4, 5].foldl (fun T j => leaUpdate (leaDelta (i % 8)) i T ((6 * i + j) % 8) j) T

/-- R202: `RK_i = (T[0], T[1], T[2], T[1], T[3], T[1])`. -/
def lea128Emit (_i : Nat) (T : List Word) : LeaRoundKey :=
  ⟨T.getD 0 0, T.getD 1 0, T.getD 2 0, T.getD 1 0, T.getD 3 0, T.getD 1 0⟩

/-- R203: `RK_i = (T[0], …, T[5])`. -/
def lea192Emit (_i : Nat) (T : List Word) : LeaRoundKey :=
  ⟨T.getD 0 0, T.getD 1 0, T.getD 2 0, T.getD 3 0, T.getD 4 0, T.getD 5 0⟩

/-- R204: `RK_i = (T[6i mod 8], …, T[(6i+5) mod 8])`. -/
def lea256Emit (i : Nat) (T : List Word) : LeaRoundKey :=
  ⟨T.getD (6 * i % 8) 0, T.getD ((6 * i + 1) % 8) 0, T.getD ((6 * i + 2) % 8) 0,
   T.getD ((6 * i + 3) % 8) 0, T.getD ((6 * i + 4) % 8) 0, T.getD ((6 * i + 5) % 8) 0⟩

/-- The loop of R202 to R204: `n` rounds from round `i` on. -/
def leaScheduleFrom (update : Nat → List Word → List Word) (emit : Nat → List Word → LeaRoundKey) :
    (n i : Nat) → List Word → List LeaRoundKey
  | 0, _, _ => []
  | n + 1, i, T =>
    let T' := update i T
    emit i T' :: leaScheduleFrom update emit n (i + 1) T'

/-- R209: the key schedule of the variant that the key length selects, 24, 28 or 32 rounds; the key words are
`split_32(K)` (R201). Validation lets no other length reach it (R292). -/
def leaKeySchedule (L : Nat) (K : BitVec L) : List LeaRoundKey :=
  let T := splitList 32 (L / 32) K
  match L with
  | 128 => leaScheduleFrom lea128Update lea128Emit 24 0 T
  | 192 => leaScheduleFrom lea192Update lea192Emit 28 0 T
  | 256 => leaScheduleFrom lea256Update lea256Emit 32 0 T
  | _ => []

/-- R205: the encryption round; all four words from the input words. -/
def leaRound (X : Quad Word) (rk : LeaRoundKey) : Quad Word :=
  { e0 := rol (add32 (X.e0 ^^^ rk.k0) (X.e1 ^^^ rk.k1)) 9
    e1 := ror (add32 (X.e1 ^^^ rk.k2) (X.e2 ^^^ rk.k3)) 5
    e2 := ror (add32 (X.e2 ^^^ rk.k4) (X.e3 ^^^ rk.k5)) 3
    e3 := X.e0 }

/-- R206: the decryption round, in the order of its data dependencies. -/
def leaInvRound (X : Quad Word) (rk : LeaRoundKey) : Quad Word :=
  let x0 := X.e3
  let x1 := sub32 (ror X.e0 9) (x0 ^^^ rk.k0) ^^^ rk.k1
  let x2 := sub32 (rol X.e1 5) (x1 ^^^ rk.k2) ^^^ rk.k3
  let x3 := sub32 (rol X.e2 3) (x2 ^^^ rk.k4) ^^^ rk.k5
  ⟨x0, x1, x2, x3⟩

/-- R207: `LEA_Encrypt(B, K)`. -/
def leaEncrypt (L : Nat) (B : BitVec 128) (K : BitVec L) : BitVec 128 :=
  join32 ((leaKeySchedule L K).foldl leaRound (split4 32 B))

/-- R208: `LEA_Decrypt(C, K)`, the rounds in reverse. -/
def leaDecrypt (L : Nat) (C : BitVec 128) (K : BitVec L) : BitVec 128 :=
  join32 ((leaKeySchedule L K).reverse.foldl leaInvRound (split4 32 C))

/-- R210: the byte-reversal of a 32-bit word, by which a host turns the published little-endian words into this core's and back.
The core itself never applies it (R201). -/
def reverseWordBytes (w : Word) : Word :=
  w.extractLsb' 0 8 ++ w.extractLsb' 8 8 ++ w.extractLsb' 16 8 ++ w.extractLsb' 24 8

/-- LEA.ENC, R211. -/
def execLeaEnc (s : State) : Result :=
  .next (s.completeCommand .leaEnc fun s =>
    s.writeOut (leaEncrypt s.lat.klen.toNat (blkOperand 128 s.lat) (keyOperand s.lat.klen.toNat s.lat)))

/-- LEA.DEC, R212. -/
def execLeaDec (s : State) : Result :=
  .next (s.completeCommand .leaDec fun s =>
    s.writeOut (leaDecrypt s.lat.klen.toNat (blkOperand 128 s.lat) (keyOperand s.lat.klen.toNat s.lat)))

/-- LEA.KS, R213. -/
def execLeaKs (s : State) : Result :=
  .next (s.completeCommand .leaKs fun s =>
    s.writeRoundKeys ((leaKeySchedule s.lat.klen.toNat (keyOperand s.lat.klen.toNat s.lat)).flatMap LeaRoundKey.words))

end Sys2Proof.Machine
end

