-- ==== Sys2Proof/Machine/Piccolo.lean ====
section
/-! DEFINITION. The Piccolo engine with 80- and 128-bit keys (44_piccolo.md R230 to R243) and the meanings of PICCOLO.ENC,
PICCOLO.DEC and PICCOLO.KS (R244 to R246). The round keys are held in pairs `(rk_{2i}, rk_{2i+1})`, one pair a round. -/

namespace Sys2Proof.Machine

/-- R230: the S-box `QS`, entries 0 to F from left to right. -/
def piccoloSbox (x : Nibble) : Nibble := tableEntry 4 0xE4B238091A7F6C5D#64 x.toNat

/-- R231: the matrix `QM`. -/
def piccoloMatrix : Quad (Quad Nibble) := ⟨⟨2, 3, 1, 1⟩, ⟨1, 2, 3, 1⟩, ⟨1, 1, 2, 3⟩, ⟨3, 1, 1, 2⟩⟩

/-- R232: `F(x)`. -/
def piccoloF (x : HalfWord) : HalfWord :=
  join4 ((matmul gmul4 piccoloMatrix ((split4 4 x).map piccoloSbox)).map piccoloSbox)

/-- `w^L = w[15:8]` (44_piccolo.md section 3). -/
def leftByte (w : HalfWord) : Byte := w.extractLsb' 8 8

/-- `w^R = w[7:0]`. -/
def rightByte (w : HalfWord) : Byte := w.extractLsb' 0 8

/-- R233: the round permutation: bytes `(x0, …, x7)` become `(x2, x7, x4, x1, x6, x3, x0, x5)`. -/
def piccoloRP (X : Quad HalfWord) : Quad HalfWord :=
  let x0 := leftByte X.e0
  let x1 := rightByte X.e0
  let x2 := leftByte X.e1
  let x3 := rightByte X.e1
  let x4 := leftByte X.e2
  let x5 := rightByte X.e2
  let x6 := leftByte X.e3
  let x7 := rightByte X.e3
  ⟨x2 ++ x7, x4 ++ x1, x6 ++ x3, x0 ++ x5⟩

/-- R235: `con32(i, C)`, with the 5-bit counter `c = i + 1`. -/
def piccoloCon32 (i : Nat) (C : Word) : Word :=
  let c := (BitVec.ofNat 5 (i + 1)).setWidth 32
  ((c <<< 27) ^^^ (c <<< 17) ^^^ (c <<< 10) ^^^ c) ^^^ C

/-- R235: `(con_{2i}, con_{2i+1})`. -/
def piccoloCon (i : Nat) (C : Word) : HalfWord × HalfWord :=
  ((piccoloCon32 i C).extractLsb' 16 16, (piccoloCon32 i C).extractLsb' 0 16)

/-- R235: the constant of Piccolo-80. -/
def piccoloC80 : Word := 0x0f1e2d3c
/-- R235: the constant of Piccolo-128. -/
def piccoloC128 : Word := 0x6547a98b

/-- What a Piccolo key schedule gives: the whitening keys `wk0 .. wk3` and one pair of round keys for each round. -/
structure PiccoloKeys where
  wk : Quad HalfWord
  rk : List (HalfWord × HalfWord)
deriving DecidableEq, Repr

/-- Key word `j`. -/
def keyWordAt (k : List HalfWord) (j : Nat) : HalfWord := k.getD j 0

/-- R236: the pair of key words that round `i` selects. -/
def piccolo80Select (k : List HalfWord) (i : Nat) : HalfWord × HalfWord :=
  match i % 5 with
  | 0 => (keyWordAt k 2, keyWordAt k 3)
  | 1 => (keyWordAt k 0, keyWordAt k 1)
  | 2 => (keyWordAt k 2, keyWordAt k 3)
  | 3 => (keyWordAt k 4, keyWordAt k 4)
  | _ => (keyWordAt k 0, keyWordAt k 1)

/-- R236: `Piccolo80_KeySchedule(K)` on the key words `split_16(K)`, 25 rounds. -/
def piccolo80KeySchedule (k : List HalfWord) : PiccoloKeys :=
  { wk :=
      ⟨leftByte (keyWordAt k 0) ++ rightByte (keyWordAt k 1), leftByte (keyWordAt k 1) ++ rightByte (keyWordAt k 0),
       leftByte (keyWordAt k 4) ++ rightByte (keyWordAt k 3), leftByte (keyWordAt k 3) ++ rightByte (keyWordAt k 4)⟩
    rk := (List.range 25).map fun i =>
      ((piccoloCon i piccoloC80).1 ^^^ (piccolo80Select k i).1, (piccoloCon i piccoloC80).2 ^^^ (piccolo80Select k i).2) }

/-- R237: the permutation of the eight key words. -/
def piccolo128Permute (k : List HalfWord) : List HalfWord :=
  [keyWordAt k 2, keyWordAt k 1, keyWordAt k 6, keyWordAt k 7, keyWordAt k 0, keyWordAt k 3, keyWordAt k 4, keyWordAt k 5]

/-- R237: the key words as they stand when round key `2i` is computed: permuted first if `2i + 2` is a multiple of 8.
(The odd index `2i + 1` never permutes.) -/
def piccolo128KeyWords (i : Nat) (k : List HalfWord) : List HalfWord :=
  if (2 * i + 2) % 8 = 0 then piccolo128Permute k else k

/-- R237: the `n` pairs of round keys from `rk_{2i}` on. -/
def piccolo128RoundKeys : (n i : Nat) → List HalfWord → List (HalfWord × HalfWord)
  | 0, _, _ => []
  | n + 1, i, k =>
    let k' := piccolo128KeyWords i k
    (keyWordAt k' ((2 * i + 2) % 8) ^^^ (piccoloCon i piccoloC128).1,
      keyWordAt k' ((2 * i + 3) % 8) ^^^ (piccoloCon i piccoloC128).2) :: piccolo128RoundKeys n (i + 1) k'

/-- R237: `Piccolo128_KeySchedule(K)` on the key words `split_16(K)`, 31 rounds. -/
def piccolo128KeySchedule (k : List HalfWord) : PiccoloKeys :=
  { wk :=
      ⟨leftByte (keyWordAt k 0) ++ rightByte (keyWordAt k 1), leftByte (keyWordAt k 1) ++ rightByte (keyWordAt k 0),
       leftByte (keyWordAt k 4) ++ rightByte (keyWordAt k 7), leftByte (keyWordAt k 7) ++ rightByte (keyWordAt k 4)⟩
    rk := piccolo128RoundKeys 31 0 k }

/-- R242: the key schedule of the variant that the key length selects. Validation lets no other length reach it (R292). -/
def piccoloKeySchedule (L : Nat) (K : BitVec L) : PiccoloKeys :=
  let k := splitList 16 (L / 16) K
  match L with
  | 80 => piccolo80KeySchedule k
  | 128 => piccolo128KeySchedule k
  | _ => ⟨⟨0, 0, 0, 0⟩, []⟩

/-- R238: the two updates of a round. -/
def piccoloRound (X : Quad HalfWord) (rk : HalfWord × HalfWord) : Quad HalfWord :=
  ⟨X.e0, X.e1 ^^^ piccoloF X.e0 ^^^ rk.1, X.e2, X.e3 ^^^ piccoloF X.e2 ^^^ rk.2⟩

/-- R238: the rounds; the last one is not followed by `RP`. -/
def piccoloRounds : List (HalfWord × HalfWord) → Quad HalfWord → Quad HalfWord
  | [], X => X
  | [rk], X => piccoloRound X rk
  | rk :: rks, X => piccoloRounds rks (piccoloRP (piccoloRound X rk))

/-- R238: two whitening keys added to words 0 and 2. -/
def piccoloWhiten (X : Quad HalfWord) (a b : HalfWord) : Quad HalfWord := ⟨X.e0 ^^^ a, X.e1, X.e2 ^^^ b, X.e3⟩

/-- R238: the data processing `G`. -/
def piccoloG (ks : PiccoloKeys) (X : Quad HalfWord) : Quad HalfWord :=
  piccoloWhiten (piccoloRounds ks.rk (piccoloWhiten X ks.wk.e0 ks.wk.e1)) ks.wk.e2 ks.wk.e3

/-- R239: `DecKeys`: the pairs in reverse order, those of the odd rounds swapped. -/
def piccoloDecKeys (ks : PiccoloKeys) : PiccoloKeys :=
  { wk := ⟨ks.wk.e2, ks.wk.e3, ks.wk.e0, ks.wk.e1⟩
    rk := ks.rk.reverse.mapIdx fun i p => if i % 2 = 0 then p else (p.2, p.1) }

/-- R240: `Piccolo_Encrypt(B, K)`. -/
def piccoloEncrypt (L : Nat) (B : BitVec 64) (K : BitVec L) : BitVec 64 :=
  join16 (piccoloG (piccoloKeySchedule L K) (split4 16 B))

/-- R241: `Piccolo_Decrypt(C, K)`. -/
def piccoloDecrypt (L : Nat) (C : BitVec 64) (K : BitVec L) : BitVec 64 :=
  join16 (piccoloG (piccoloDecKeys (piccoloKeySchedule L K)) (split4 16 C))

/-- R246: the RKMEM words of a key schedule: the whitening keys in two words, then one word for each round. -/
def piccoloKeyMemory (ks : PiccoloKeys) : List Word :=
  (ks.wk.e0 ++ ks.wk.e1) :: (ks.wk.e2 ++ ks.wk.e3) :: ks.rk.map fun p => p.1 ++ p.2

/-- PICCOLO.ENC, R244. -/
def execPiccoloEnc (s : State) : Result :=
  .next (s.completeCommand .piccoloEnc fun s =>
    s.writeOut (piccoloEncrypt s.lat.klen.toNat (blkOperand 64 s.lat) (keyOperand s.lat.klen.toNat s.lat)))

/-- PICCOLO.DEC, R245. -/
def execPiccoloDec (s : State) : Result :=
  .next (s.completeCommand .piccoloDec fun s =>
    s.writeOut (piccoloDecrypt s.lat.klen.toNat (blkOperand 64 s.lat) (keyOperand s.lat.klen.toNat s.lat)))

/-- PICCOLO.KS, R246. -/
def execPiccoloKs (s : State) : Result :=
  .next (s.completeCommand .piccoloKs fun s =>
    s.writeRoundKeys (piccoloKeyMemory (piccoloKeySchedule s.lat.klen.toNat (keyOperand s.lat.klen.toNat s.lat))))

end Sys2Proof.Machine
end

