-- ==== Sys2Proof/Machine/Present.lean ====
section
/-! DEFINITION. The PRESENT-80 engine (42_present.md R170 to R181) and the meanings of PRESENT.ENC, PRESENT.DEC and
PRESENT.KS (R182 to R184). -/

namespace Sys2Proof.Machine

/-- R170: the S-box `PS`, entries 0 to F from left to right. -/
def presentSbox (x : Nibble) : Nibble := tableEntry 4 0xC56B90AD3EF84712#64 x.toNat

/-- R171: the inverse S-box `PSI`. -/
def presentInvSbox (y : Nibble) : Nibble := tableEntry 4 0x5EF8C12DB463079A#64 y.toNat

/-- R174, R175: a nibble table applied to each of the sixteen nibbles of a 64-bit state. -/
def nibbleLayer (t : Nibble → Nibble) (s : BitVec 64) : BitVec 64 :=
  join16 ((split4 16 s).map fun h => join4 ((split4 4 h).map t))

/-- R174. -/
def sBoxLayer (s : BitVec 64) : BitVec 64 := nibbleLayer presentSbox s

/-- R175. -/
def invSBoxLayer (s : BitVec 64) : BitVec 64 := nibbleLayer presentInvSbox s

/-- R176: `P(i)`. -/
def presentP (i : Nat) : Nat := if i = 63 then 63 else 16 * i % 63

/-- R177: `PINV(j)`. -/
def presentPInv (j : Nat) : Nat := if j = 63 then 63 else 4 * j % 63

/-- The `n`-bit value whose bit `i` is `f i`. -/
def gatherBits (f : Nat → Bool) : (n : Nat) → BitVec n
  | 0 => 0#0
  | n + 1 => BitVec.cons (f n) (gatherBits f n)

/-- R176: bit `i` moves to bit `P(i)`; that is, bit `j` of the result is bit `PINV(j)` of the state. -/
def pLayer (s : BitVec 64) : BitVec 64 := gatherBits (fun j => s.getLsbD (presentPInv j)) 64

/-- R177: `s'[i] = s[P(i)]`. -/
def invPLayer (s : BitVec 64) : BitVec 64 := gatherBits (fun i => s.getLsbD (presentP i)) 64

/-- R173. -/
def presentAddRoundKey (s k : BitVec 64) : BitVec 64 := s ^^^ k

/-- R178: `update_i(reg)`: rotate left by 61, substitute the top nibble, add the 5-bit counter `i` into bits [19:15]. -/
def presentUpdate (i : Nat) (reg : BitVec 80) : BitVec 80 :=
  let r := rol reg 61
  let r : BitVec 80 := presentSbox (r.extractLsb' 76 4) ++ r.extractLsb' 0 76
  r ^^^ ((BitVec.ofNat 5 i).setWidth 80 <<< 15)

/-- R179: the `n` round keys `K_i, K_{i+1}, …` when the key register is `reg` before update `i`. -/
def presentKeysFrom : (n i : Nat) → BitVec 80 → List (BitVec 64)
  | 0, _, _ => []
  | n + 1, i, reg => reg.extractLsb' 16 64 :: presentKeysFrom n (i + 1) (presentUpdate i reg)

/-- R179: `PRESENT_KeySchedule(K)`, the round keys `K_1 .. K_32`. The update after `K_32` is never looked at. -/
def presentKeySchedule (K : BitVec 80) : List (BitVec 64) := presentKeysFrom 32 1 K

/-- R180: one round for each round key but the last, which is added at the end. -/
def presentEncRounds : List (BitVec 64) → BitVec 64 → BitVec 64
  | [], s => s
  | [k], s => presentAddRoundKey s k
  | k :: ks, s => presentEncRounds ks (pLayer (sBoxLayer (presentAddRoundKey s k)))

/-- R180: `PRESENT_Encrypt(p, K)`. -/
def presentEncrypt (p : BitVec 64) (K : BitVec 80) : BitVec 64 := presentEncRounds (presentKeySchedule K) p

/-- R181: the rounds of the loop, for the round keys `K_31 .. K_1` in this order. -/
def presentDecRounds : List (BitVec 64) → BitVec 64 → BitVec 64
  | [], s => s
  | k :: ks, s => presentDecRounds ks (presentAddRoundKey (invSBoxLayer (invPLayer s)) k)

/-- R181: `PRESENT_Decrypt(c, K)`, the whole schedule first. -/
def presentDecrypt (c : BitVec 64) (K : BitVec 80) : BitVec 64 :=
  match (presentKeySchedule K).reverse with
  | [] => c
  | k32 :: ks => presentDecRounds ks (presentAddRoundKey c k32)

/-- PRESENT.ENC, R182. -/
def execPresentEnc (s : State) : Result :=
  .next (s.completeCommand .presentEnc fun s =>
    s.writeOut (presentEncrypt (blkOperand 64 s.lat) (keyOperand 80 s.lat)))

/-- PRESENT.DEC, R183. -/
def execPresentDec (s : State) : Result :=
  .next (s.completeCommand .presentDec fun s =>
    s.writeOut (presentDecrypt (blkOperand 64 s.lat) (keyOperand 80 s.lat)))

/-- PRESENT.KS, R184. -/
def execPresentKs (s : State) : Result :=
  .next (s.completeCommand .presentKs fun s =>
    s.writeRoundKeys (words64 (presentKeySchedule (keyOperand 80 s.lat))))

end Sys2Proof.Machine
end

