-- ==== Sys2Proof/Machine/Dispatch.lean ====
section
/-! DEFINITION. R272, R273: the completion step of a command whose word has been decoded, one arm for each command of R83. -/

namespace Sys2Proof.Machine

def exec (i : Instr) (s : State) : Host.Outcome State Fault Refusal :=
  match i with
  | .aesEnc => Sys2Proof.Machine.execAesEnc s
  | .aesDec => Sys2Proof.Machine.execAesDec s
  | .aesKs => Sys2Proof.Machine.execAesKs s
  | .aesFrb => Sys2Proof.Machine.execAesFrb s
  | .presentEnc => Sys2Proof.Machine.execPresentEnc s
  | .presentDec => Sys2Proof.Machine.execPresentDec s
  | .presentKs => Sys2Proof.Machine.execPresentKs s
  | .leaEnc => Sys2Proof.Machine.execLeaEnc s
  | .leaDec => Sys2Proof.Machine.execLeaDec s
  | .leaKs => Sys2Proof.Machine.execLeaKs s
  | .piccoloEnc => Sys2Proof.Machine.execPiccoloEnc s
  | .piccoloDec => Sys2Proof.Machine.execPiccoloDec s
  | .piccoloKs => Sys2Proof.Machine.execPiccoloKs s

end Sys2Proof.Machine
end

