-- ==== Sys2Proof/Machine/Lifecycle.lean ====
section
/-! DEFINITION. The command lifecycle (45_facade.md): the completion step and what each event of R278 does. Also the bus-scripts
of R91 and R92 and the calls of R279 as sequences of events. -/

namespace Sys2Proof.Machine

/-- R272, R273: the completion step. It runs the command in LAT, or reports InvalidCommand (R291). -/
def completeStep (s : State) : Result :=
  match decode s.lat.cmd with
  | .ok i => exec i s
  | .error _ => .next (s.raiseError .invalidCommand)

/-- The completion step where it is enabled, that is while BUSY = 1 (R278); otherwise nothing happens. -/
def completeIfBusy (s : State) : Result :=
  if s.busy then completeStep s else .next s

/-- R278: what an event does. -/
def perform (e : Event) (s : State) : Result :=
  match e with
  | .read size off => s.busRead size off
  | .write size off v => s.busWrite size off v
  | .complete => completeIfBusy s
  | .reset => .next s.resetCore

/-- The next event of the core: the next pending one; when none is pending, the completion of the command in progress, if
there is one (R277: it is taken eventually); when there is none either, the core stays Idle and keeps all state (R307). -/
def nextEvent (s : State) : Result :=
  match s.inputs with
  | [] => completeIfBusy s
  | e :: es => perform e { s with inputs := es }

/-- R91: `W reg, v`. -/
def scriptWrite (r : Reg) (v : Word) : Event := .write .bits32 r.offset v

/-- R91: `R reg`. -/
def scriptRead (r : Reg) : Event := .read .bits32 r.offset

/-- R92: the loop `POLL`, when the completion step falls after its `k`-th read: it reads STATUS until BUSY = 0, and so
ends with the first read after the completion step. -/
def scriptPoll (k : Nat) : List Event :=
  List.replicate k (scriptRead .status) ++ [.complete, scriptRead .status]

/-- R92: `RUN MNEMONIC`, when the completion step falls after the `k`-th read of its POLL. -/
def scriptRun (i : Instr) (k : Nat) : List Event := scriptWrite .cmd (encode i) :: scriptPoll k

/-- R279: the operand writes of a call, in one order. A KS call writes the key words and KEY_LEN and nothing else; every
other call writes the block words and BLK_LEN too. -/
def scriptOperands (i : Instr) (key blk : List Word) (klen blen : Word) : List Event :=
  (key.mapIdx fun j w => .write .bits32 (0x020 + 4 * j) w) ++ [scriptWrite .keyLen klen] ++
    if i.opField = 3 then []
    else (blk.mapIdx fun j w => .write .bits32 (0x040 + 4 * j) w) ++ [scriptWrite .blkLen blen]

/-- R279: the reads of a result: of a KS call RK_COUNT and the `n` words of RKMEM that it counts, of every other call the
registers that hold the first `W` bits of BLK_OUT. -/
def scriptResult (i : Instr) (W n : Nat) : List Event :=
  if i.opField = 3 then scriptRead .rkCount :: (List.range n).map fun j => .read .bits32 (0x400 + 4 * j)
  else (List.range ((W + 31) / 32)).map fun j => .read .bits32 (0x050 + 4 * j)

/-- R279, column "result read": the first `W` bits of the words that were read, counting from bit 31 of the first. -/
def resultBits (W : Nat) (ws : List Word) : BitVec W := BitVec.ofNat W (firstBits ws W)

/-- R279: what the host checks of the final STATUS before it reads the result: DONE = 1 and ERR = 0. -/
def callSucceeded (status : Word) : Bool := status.getLsbD 1 && status.extractLsb' 4 4 == 0

/-- R279, row "failure": the kind of error that the final STATUS reports (R290). -/
def callError (status : Word) : Option ErrorKind :=
  [ErrorKind.invalidBlockWidth, .invalidKeyWidth, .malformedBitVector, .invalidCommand].find? fun e =>
    status.extractLsb' 4 4 == e.code

/-- R279: a call that succeeds, as a bus-script: the operand writes in any order, RUN with its completion step after the `k`-th
read of its POLL, and the reads of the result. -/
def isCall (i : Instr) (key blk : List Word) (klen blen : Word) (k n : Nat) (es : List Event) : Prop :=
  ∃ ops, ops.Perm (scriptOperands i key blk klen blen) ∧ es = ops ++ scriptRun i k ++ scriptResult i blen.toNat n

/-- The state in which the command word `v` has just been accepted and its completion step comes next. -/
def State.startCommand (s : State) (v : Word) : State :=
  { s.accept v with inputs := .complete :: s.inputs }

end Sys2Proof.Machine
end

