-- ==== Sys2Proof/Machine/Step.lean ====
section
/-! DEFINITION. One step of the machine (R278). -/

namespace Sys2Proof.Machine

/-- One step: the next event. -/
def step (s : State) : Host.Outcome State Fault Refusal := nextEvent s

/-- The core fetches no instruction (R71): what it runs next is the word in LAT when the completion step comes (R272). So the
command word, the first `nbits` bits of `w`, is accepted (R270), and the completion step is the next event. -/
def State.withFetchWord (s : State) (nbits w : Nat) : State :=
  s.startCommand (BitVec.ofNat 32 (w % 2 ^ nbits))

end Sys2Proof.Machine
end

