-- ==== Sys2Proof/Safety.lean ====
section
/-! DEFINITION. What claims about the machine are stated in: the invariant of the register interface (R35 and what goes with
it), when a result may be read (R326), and what a step leaves unchanged. -/

namespace Sys2Proof.Machine

/-- The invariant every step keeps. It holds after reset. -/
structure State.Inv (s : State) : Prop where
  /-- R35: `BUSY = 1` implies `DONE = 0` and `ERR = 0`. -/
  busy_clear : s.busy = true → s.done = false ∧ s.err = 0
  /-- R35: `ERR ≠ 0` implies `DONE = 1`. -/
  err_done : s.err ≠ 0 → s.done = true
  /-- R290, R294: codes 3 and 5 to 15 are never reported. -/
  err_code : s.err = 0 ∨ s.err = 1 ∨ s.err = 2 ∨ s.err = 4
  /-- R21, R33: while a command is in progress, CMD is the word it was started with. -/
  busy_cmd : s.busy = true → s.lat.cmd = s.cmd
  /-- RKMEM keeps its canonical form. -/
  rkmem_wf : Memory.wf s.rkmem
  /-- R28, D21: the longest schedule has 192 words. -/
  rkCount_le : s.rkCount.toNat ≤ 192
  /-- R28, R328: the words below RK_COUNT were written by a KS command. -/
  rkCount_written : ∀ i, i < s.rkCount.toNat → (Memory.get s.rkmem i).isSome = true

/-- R326: the last command succeeded and its outputs may be read: BUSY = 0, DONE = 1, ERR = 0. -/
def State.resultReady (s : State) : Prop := s.busy = false ∧ s.done = true ∧ s.err = 0

/-- STATUS after an error `e` (R293). -/
def State.reports (s : State) (e : ErrorKind) : Prop := s.busy = false ∧ s.done = true ∧ s.err = e.code

/-- CMD, the input registers, the lengths and the snapshot are as before. -/
def State.inputsKept (s t : State) : Prop :=
  t.cmd = s.cmd ∧ t.keyLen = s.keyLen ∧ t.blkLen = s.blkLen ∧ t.key = s.key ∧ t.blkIn = s.blkIn ∧ t.lat = s.lat

/-- RK_COUNT and every word of RKMEM are as before. -/
def State.roundKeysKept (s t : State) : Prop :=
  t.rkCount = s.rkCount ∧ ∀ i, Memory.get t.rkmem i = Memory.get s.rkmem i

/-- BLK_OUT0 to BLK_OUT3 are as before. -/
def State.outKept (s t : State) : Prop := t.blkOut = s.blkOut

/-- STATUS is as before. -/
def State.statusKept (s t : State) : Prop := t.busy = s.busy ∧ t.done = s.done ∧ t.err = s.err

/-- The pending events and the host's record are as before. -/
def State.hostKept (s t : State) : Prop := t.inputs = s.inputs ∧ t.replies = s.replies

/-- OUTREG holds the four words `w0 ‖ w1 ‖ w2 ‖ w3`, as bus reads return them. -/
def State.outIs (t : State) (w0 w1 w2 w3 : Word) : Prop :=
  t.readReg (.blkOut 0) = some w0 ∧ t.readReg (.blkOut 1) = some w1 ∧ t.readReg (.blkOut 2) = some w2 ∧
    t.readReg (.blkOut 3) = some w3

/-- RK_COUNT is `n`, and every word of RKMEM from index `n` on is as before (R28, R32). -/
def State.roundKeysFrom (s t : State) (n : Nat) : Prop :=
  t.rkCount.toNat = n ∧ ∀ i, n ≤ i → Memory.get t.rkmem i = Memory.get s.rkmem i

/-- A command failed with the error `e`: STATUS says so, and nothing the bus can read is changed beside it (R293). -/
def State.failsAs (s t : State) (e : ErrorKind) : Prop :=
  t.reports e ∧ s.inputsKept t ∧ s.outKept t ∧ s.roundKeysKept t ∧ s.hostKept t

/-- An ENC, DEC or FRB command succeeded with the four result words: OUTREG holds them, and beside STATUS nothing else
the bus can read is changed (R273, R87, R42). -/
def State.deliversOut (s t : State) (w0 w1 w2 w3 : Word) : Prop :=
  t.resultReady ∧ t.outIs w0 w1 w2 w3 ∧ s.inputsKept t ∧ s.roundKeysKept t ∧ s.hostKept t

/-- A KS command succeeded with `n` words: beside STATUS, RK_COUNT and the first `n` words of RKMEM nothing the bus can
read is changed (R273, R32). -/
def State.deliversKeys (s t : State) (n : Nat) : Prop :=
  t.resultReady ∧ s.roundKeysFrom t n ∧ s.inputsKept t ∧ s.outKept t ∧ s.hostKept t

end Sys2Proof.Machine
end

