-- ==== Sys2Proof/Certificates/Slice0/Obligations.lean ====
section
/-! DEFINITION. The statements for the provers. Each formalises a rule of spec/ or follows from one; the docstring says which
and, where a clause is the model's own choice, names the log entry. -/

open Sys2Proof Sys2Proof.Machine

/-! ## The command word -/

/-- R83, R90: each of the thirteen command words, written out, decodes to its command. -/
def Obligations.CommandWordsDecodeToTheirCommands : Prop :=
  decode 0x00000011#32 = .ok .aesEnc ∧ decode 0x00000012#32 = .ok .aesDec ∧ decode 0x00000013#32 = .ok .aesKs ∧
  decode 0x00000014#32 = .ok .aesFrb ∧ decode 0x00000021#32 = .ok .presentEnc ∧
  decode 0x00000022#32 = .ok .presentDec ∧ decode 0x00000023#32 = .ok .presentKs ∧
  decode 0x00000031#32 = .ok .leaEnc ∧ decode 0x00000032#32 = .ok .leaDec ∧ decode 0x00000033#32 = .ok .leaKs ∧
  decode 0x00000041#32 = .ok .piccoloEnc ∧ decode 0x00000042#32 = .ok .piccoloDec ∧
  decode 0x00000043#32 = .ok .piccoloKs

/-- R83, R90: decoding and encoding agree in both directions: a word decodes to a command exactly when it is that
command's word, so the legal words are exactly the thirteen of the command map. -/
def Obligations.WordDecodesExactlyToTheCommandItEncodes : Prop :=
  ∀ (c : Word) (i : Instr), decode c = .ok i ↔ c = encode i

/-- R84: which words are valid; and every other word written to CMD while BUSY = 0 is accepted like any other, and its
completion reports InvalidCommand. -/
def Obligations.ValidWordsAndTheFateOfIllegalOnes : Prop :=
  ∀ c : Word,
    ((∃ i, decode c = .ok i) ↔
      c.extractLsb' 8 24 = 0 ∧
      (1 ≤ (c.extractLsb' 0 4).toNat ∧ (c.extractLsb' 0 4).toNat ≤ 4) ∧
      (1 ≤ (c.extractLsb' 4 4).toNat ∧ (c.extractLsb' 4 4).toNat ≤ 4) ∧
      ((c.extractLsb' 0 4).toNat = 4 → (c.extractLsb' 4 4).toNat = 1)) ∧
    ∀ (s : State) (es : List Event), s.busy = false → (¬∃ i, decode c = .ok i) →
      s.inputs = .write .bits32 0x000 c :: .complete :: es →
      ∃ t u, step s = .next t ∧ t.busy = true ∧ t.cmd = c ∧ t.lat.cmd = c ∧
        step t = .next u ∧ u.reports .invalidCommand

/-! ## The register window -/

/-- R60: for every base address, the 4 KiB from it on are the window's addresses and no other address is. That the model stops
with a fault on an access outside the window is the model's choice (log entry 9). -/
def Obligations.WindowAndWhatLiesOutsideIt : Prop :=
  (∀ base : Nat,
    (∀ off, off < 0x1000 → busOffset base (busAddress base off) = some off) ∧
    (∀ addr, addr < base ∨ base + 0x1000 ≤ addr → busOffset base addr = none)) ∧
  ∀ (s : State) (size : AccessSize) (off : Nat) (v : Word), 0x1000 ≤ off →
    s.busRead size off = .fault .outsideWindow ∧ s.busWrite size off v = .fault .outsideWindow

/-- R20: the register at every aligned offset of the window. -/
def Obligations.RegisterMapOfTheWindow : Prop :=
  regAt 0x000 = .cmd ∧ regAt 0x004 = .status ∧ regAt 0x008 = .keyLen ∧ regAt 0x00C = .blkLen ∧
  regAt 0x010 = .rkCount ∧
  (∀ j : Fin 8, regAt (0x020 + 4 * j.val) = .key j) ∧
  (∀ j : Fin 4, regAt (0x040 + 4 * j.val) = .blkIn j) ∧
  (∀ j : Fin 4, regAt (0x050 + 4 * j.val) = .blkOut j) ∧
  (∀ i : Fin 256, regAt (0x400 + 4 * i.val) = .rkmem i) ∧
  (∀ off, (0x014 ≤ off ∧ off ≤ 0x01C) ∨ (0x060 ≤ off ∧ off ≤ 0x3FC) ∨ (0x800 ≤ off ∧ off ≤ 0xFFC) →
    regAt off = .reserved)

/-- R34: reserved offsets read as 0 and ignore writes. -/
def Obligations.ReservedOffsetsReadZeroAndIgnoreWrites : Prop :=
  ∀ (s : State) (off : Nat) (v : Word) (es : List Event), off % 4 = 0 →
    (0x014 ≤ off ∧ off ≤ 0x01C) ∨ (0x060 ≤ off ∧ off ≤ 0x3FC) ∨ (0x800 ≤ off ∧ off ≤ 0xFFC) →
    (s.inputs = .read .bits32 off :: es →
      step s = .next { s with inputs := es, replies := 0x00000000 :: s.replies }) ∧
    (s.inputs = .write .bits32 off v :: es → step s = .next { s with inputs := es })

/-- R61: inside the window, an access that is not 32 bits wide or not at a multiple of 4 is refused, and every other
access answers a next state. -/
def Obligations.OnlyAlignedWordAccessesAreAdmitted : Prop :=
  ∀ (s : State) (size : AccessSize) (off : Nat) (v : Word), off < 0x1000 →
    (size ≠ .bits32 ∨ off % 4 ≠ 0 →
      s.busRead size off = .refused .undefinedAccess ∧ s.busWrite size off v = .refused .undefinedAccess) ∧
    (size = .bits32 ∧ off % 4 = 0 → (∃ t, s.busRead size off = .next t) ∧ ∃ t, s.busWrite size off v = .next t)

/-- R65, R67: a bus read has no side effect on any state of the core: it adds one value to the host's record. -/
def Obligations.BusReadHasNoSideEffect : Prop :=
  ∀ (s t : State) (size : AccessSize) (off : Nat), s.busRead size off = .next t →
    s.inputsKept t ∧ s.statusKept t ∧ s.outKept t ∧ t.rkmem = s.rkmem ∧ t.rkCount = s.rkCount ∧ t.engine = s.engine ∧
    t.inputs = s.inputs ∧ ∃ v, t.replies = v :: s.replies

/-- What every aligned 32-bit read returns. R276 and the rules of 10_state.md: reads of CMD, STATUS, KEY_LEN, BLK_LEN, RK_COUNT
and of KEY and BLK_IN registers that were written return their values, busy or not; a read of BLK_OUT or RKMEM returns the
value stored there with BUSY = 0, and a draw with BUSY = 1 whatever is stored there. R36: a read of a register or RKMEM word
not written since reset returns a draw. Which draw it is is the model's bookkeeping (log entries 4, 5). -/
def Obligations.ReadsWhileBusyAndAfter : Prop :=
  ∀ s : State,
    (s.busRead .bits32 0x000 = .next { s with replies := s.cmd :: s.replies } ∧
      s.busRead .bits32 0x004 = .next { s with replies := s.statusWord :: s.replies } ∧
      s.busRead .bits32 0x008 = .next { s with replies := s.keyLen.setWidth 32 :: s.replies } ∧
      s.busRead .bits32 0x00C = .next { s with replies := s.blkLen.setWidth 32 :: s.replies } ∧
      s.busRead .bits32 0x010 = .next { s with replies := s.rkCount.setWidth 32 :: s.replies }) ∧
    (∀ j : Fin 8,
      (∀ v : Word, s.key[j.val] = .of v →
        s.busRead .bits32 (0x020 + 4 * j.val) = .next { s with replies := v :: s.replies }) ∧
      (s.key[j.val].written = false → s.busRead .bits32 (0x020 + 4 * j.val) =
        .next { s with replies := Config.draw s.draws :: s.replies, draws := s.draws + 1 })) ∧
    (∀ j : Fin 4,
      (∀ v : Word, s.blkIn[j.val] = .of v →
        s.busRead .bits32 (0x040 + 4 * j.val) = .next { s with replies := v :: s.replies }) ∧
      (s.blkIn[j.val].written = false → s.busRead .bits32 (0x040 + 4 * j.val) =
        .next { s with replies := Config.draw s.draws :: s.replies, draws := s.draws + 1 })) ∧
    (∀ j : Fin 4,
      (∀ v : Word, s.busy = false → s.blkOut[j.val] = .of v →
        s.busRead .bits32 (0x050 + 4 * j.val) = .next { s with replies := v :: s.replies }) ∧
      (s.busy = true ∨ s.blkOut[j.val].written = false → s.busRead .bits32 (0x050 + 4 * j.val) =
        .next { s with replies := Config.draw s.draws :: s.replies, draws := s.draws + 1 })) ∧
    (∀ i : Fin 256,
      (∀ v : Word, s.busy = false → Memory.get s.rkmem i.val = some v →
        s.busRead .bits32 (0x400 + 4 * i.val) = .next { s with replies := v :: s.replies }) ∧
      (s.busy = true ∨ Memory.get s.rkmem i.val = none → s.busRead .bits32 (0x400 + 4 * i.val) =
        .next { s with replies := Config.draw s.draws :: s.replies, draws := s.draws + 1 }))

/-- R22 to R25: the layout of STATUS, bit by bit. -/
def Obligations.StatusWordLayout : Prop :=
  ∀ (s : State) (n : Nat), s.statusWord.getLsbD n =
    if n = 0 then s.busy
    else if n = 1 then s.done
    else if 4 ≤ n ∧ n ≤ 7 then s.err.getLsbD (n - 4)
    else false

/-- R25: STATUS bits [3:2] and [31:8] read as 0; a write to STATUS, whatever its value, changes no state; and DONE and ERR are
cleared only by an accepted CMD write or by reset. -/
def Obligations.StatusIsReadOnlyAndClearedOnlyByCommandOrReset : Prop :=
  (∀ (s : State) (n : Nat), (2 ≤ n ∧ n ≤ 3) ∨ 8 ≤ n → s.statusWord.getLsbD n = false) ∧
  (∀ (s : State) (v : Word) (es : List Event), s.inputs = .write .bits32 0x004 v :: es →
    step s = .next { s with inputs := es }) ∧
  (∀ s t : State, s.Inv → step s = .next t → (s.done = true ∧ t.done = false) ∨ (s.err ≠ 0 ∧ t.err = 0) →
    ∃ es, (s.busy = false ∧ ∃ v, s.inputs = .write .bits32 0x000 v :: es) ∨ s.inputs = .reset :: es)

/-- R26, R27: a write to KEY_LEN or BLK_LEN stores bits [15:0], drops bits [31:16], which read as 0, and changes nothing
else. -/
def Obligations.LengthWritesKeepLowHalf : Prop :=
  ∀ (s : State) (v : Word) (es : List Event),
    (s.inputs = .write .bits32 0x008 v :: es →
      ∃ t, step s = .next t ∧ t = { s with inputs := es, keyLen := v.extractLsb' 0 16 } ∧
        t.readReg .keyLen = some (0#16 ++ v.extractLsb' 0 16)) ∧
    (s.inputs = .write .bits32 0x00C v :: es →
      ∃ t, step s = .next t ∧ t = { s with inputs := es, blkLen := v.extractLsb' 0 16 } ∧
        t.readReg .blkLen = some (0#16 ++ v.extractLsb' 0 16))

/-- R29, R30, R275: a write to a KEY or BLK_IN register, busy or not, is read back from that register, leaves every other
register of the window as it reads, and changes no other state at all: neither LAT nor a stored word of BLK_OUT or RKMEM. -/
def Obligations.OperandWriteReadsBackAndTouchesNothingElse : Prop :=
  ∀ (s : State) (v : Word) (es : List Event),
    (∀ j : Fin 8, s.inputs = .write .bits32 (0x020 + 4 * j.val) v :: es →
      ∃ t, step s = .next t ∧ t = { s with inputs := es, key := s.key.set j.val (.of v) } ∧
        t.readReg (.key j) = some v ∧ ∀ r, r ≠ .key j → t.readReg r = s.readReg r) ∧
    (∀ j : Fin 4, s.inputs = .write .bits32 (0x040 + 4 * j.val) v :: es →
      ∃ t, step s = .next t ∧ t = { s with inputs := es, blkIn := s.blkIn.set j.val (.of v) } ∧
        t.readReg (.blkIn j) = some v ∧ ∀ r, r ≠ .blkIn j → t.readReg r = s.readReg r)

/-- R279, R325, R275: the operand writes of a call, in whatever order they are made: the registers they name take the values,
those of a KS call leave BLK_IN and BLK_LEN alone, and nothing else changes. -/
def Obligations.OperandWritesOfACallInAnyOrder : Prop :=
  ∀ (i : Instr) (s : State) (key blk : List Word) (klen blen : Word) (ops es : List Event),
    key.length ≤ 8 → blk.length ≤ 4 → ops.Perm (scriptOperands i key blk klen blen) → s.inputs = ops ++ es →
    ∃ t, Sys2Proof.core.run ops.length s = .next t ∧
      t = { s with inputs := es, key := t.key, blkIn := t.blkIn, keyLen := t.keyLen, blkLen := t.blkLen } ∧
      t.keyLen = klen.extractLsb' 0 16 ∧
      (∀ j : Fin 8, t.key[j.val] = (key[j.val]?.map DataWord.of).getD s.key[j.val]) ∧
      (i.opField = 3 → t.blkLen = s.blkLen ∧ t.blkIn = s.blkIn) ∧
      (i.opField ≠ 3 → t.blkLen = blen.extractLsb' 0 16 ∧
        ∀ j : Fin 4, t.blkIn[j.val] = (blk[j.val]?.map DataWord.of).getD s.blkIn[j.val])

/-- R28, R31, R32: bus writes to RK_COUNT, BLK_OUT and RKMEM are ignored. -/
def Obligations.OutputRegistersIgnoreWrites : Prop :=
  ∀ (s : State) (r : Reg) (v : Word) (es : List Event), r = .rkCount ∨ (∃ j, r = .blkOut j) ∨ (∃ i, r = .rkmem i) →
    s.inputs = .write .bits32 r.offset v :: es → step s = .next { s with inputs := es }

/-! ## The command lifecycle -/

/-- R270: acceptance of a CMD write, whatever the word: CMD and the snapshot take their values, STATUS becomes busy, and
nothing else changes. A register not written since reset has no value the snapshot could be said to take (R36). -/
def Obligations.AcceptedCommandTakesItsSnapshot : Prop :=
  ∀ (s : State) (v : Word) (es : List Event), s.busy = false → s.inputs = .write .bits32 0x000 v :: es →
    ∃ t, step s = .next t ∧ t.cmd = v ∧ t.lat.cmd = v ∧
      (∀ (j : Fin 8) (x : Word), s.key[j.val].known = some x → t.lat.key[j.val] = x) ∧
      (∀ (j : Fin 4) (x : Word), s.blkIn[j.val].known = some x → t.lat.blk[j.val] = x) ∧
      t.lat.klen = s.keyLen ∧ t.lat.blen = s.blkLen ∧
      t.busy = true ∧ t.done = false ∧ t.err = 0 ∧
      t.keyLen = s.keyLen ∧ t.blkLen = s.blkLen ∧ t.rkCount = s.rkCount ∧ t.key = s.key ∧ t.blkIn = s.blkIn ∧
      t.blkOut = s.blkOut ∧ t.rkmem = s.rkmem ∧ t.engine = s.engine ∧ t.inputs = es ∧ t.replies = s.replies

/-- R271: a CMD write while BUSY = 1 changes nothing. -/
def Obligations.CommandWriteWhileBusyIsDropped : Prop :=
  ∀ (s : State) (v : Word) (es : List Event), s.busy = true → s.inputs = .write .bits32 0x000 v :: es →
    step s = .next { s with inputs := es }

/-- R272: the completion step of a command in progress whose word decodes to `i` is `exec i`; if the word is illegal, it reports
InvalidCommand. It is taken at a `complete` event, and as soon as no event is pending: that second moment is the model's
choice (log entry 2). -/
def Obligations.StepRunsTheDecodedCommand : Prop :=
  ∀ (s : State) (es : List Event), s.busy = true →
    (∀ i : Instr, decode s.lat.cmd = .ok i → i.wf = true →
      (s.inputs = .complete :: es → step s = exec i { s with inputs := es }) ∧
      (s.inputs = [] → step s = exec i s)) ∧
    ((∃ e, decode s.lat.cmd = .error e) →
      (s.inputs = .complete :: es → ∃ t, step s = .next t ∧ t.reports .invalidCommand) ∧
      (s.inputs = [] → ∃ t, step s = .next t ∧ t.reports .invalidCommand))

/-- R292: the lengths each command supports; and R291: the first failing check decides: illegal word, then block length (not
for a KS command), then key length. -/
def Obligations.SupportedLengthsAndFirstFailingCheck : Prop :=
  ((∀ i ∈ [Instr.aesEnc, .aesDec], blockLengths i = some [128] ∧ keyLengths i = [128]) ∧
    (blockLengths .aesKs = none ∧ keyLengths .aesKs = [128]) ∧
    (blockLengths .aesFrb = some [8] ∧ keyLengths .aesFrb = [8]) ∧
    (∀ i ∈ [Instr.presentEnc, .presentDec], blockLengths i = some [64] ∧ keyLengths i = [80]) ∧
    (blockLengths .presentKs = none ∧ keyLengths .presentKs = [80]) ∧
    (∀ i ∈ [Instr.leaEnc, .leaDec], blockLengths i = some [128] ∧ keyLengths i = [128, 192, 256]) ∧
    (blockLengths .leaKs = none ∧ keyLengths .leaKs = [128, 192, 256]) ∧
    (∀ i ∈ [Instr.piccoloEnc, .piccoloDec], blockLengths i = some [64] ∧ keyLengths i = [80, 128]) ∧
    (blockLengths .piccoloKs = none ∧ keyLengths .piccoloKs = [80, 128])) ∧
  ∀ lat : Latch,
    ((∃ e, decode lat.cmd = .error e) → validate lat = some .invalidCommand) ∧
    ∀ i, decode lat.cmd = .ok i →
      (i.opField ≠ 3 ∧ (∀ ls, blockLengths i = some ls → lat.blen.toNat ∉ ls) → validate lat = some .invalidBlockWidth) ∧
      ((i.opField = 3 ∨ ∃ ls, blockLengths i = some ls ∧ lat.blen.toNat ∈ ls) →
        (lat.klen.toNat ∉ keyLengths i → validate lat = some .invalidKeyWidth) ∧
        (lat.klen.toNat ∈ keyLengths i → validate lat = none))

/-- R273, R295: the completion step of any command in progress answers a next state; BUSY becomes 0, DONE 1 and ERR the code
of the first failing check, or 0. -/
def Obligations.CompletionWritesStatus : Prop :=
  ∀ (s : State) (es : List Event), s.busy = true → s.inputs = .complete :: es →
    ∃ t, step s = .next t ∧ t.busy = false ∧ t.done = true ∧
      t.err = (match validate s.lat with | none => 0 | some e => e.code) ∧
      s.inputsKept t ∧ t.inputs = es ∧ t.replies = s.replies

/-- R293: a command that fails validation changes STATUS and nothing else. -/
def Obligations.FailedCommandChangesOnlyStatus : Prop :=
  ∀ (s : State) (e : ErrorKind) (es : List Event), s.busy = true → s.inputs = .complete :: es →
    validate s.lat = some e →
    step s = .next { s with inputs := es, busy := false, done := true, err := e.code }

/-- R274: the effect of the completion step is a function of LAT alone: whatever else the two states hold, STATUS is the
same after it, and so is OUTREG after a successful ENC, DEC or FRB and RK_COUNT and the words below it after a successful
KS. -/
def Obligations.CompletionIsAFunctionOfTheSnapshot : Prop :=
  ∀ s s' : State, s.lat = s'.lat →
    ∃ t t', completeStep s = .next t ∧ completeStep s' = .next t' ∧
      t.busy = t'.busy ∧ t.done = t'.done ∧ t.err = t'.err ∧
      ∀ i, decode s.lat.cmd = .ok i → validate s.lat = none →
        (i.opField ≠ 3 → t.blkOut = t'.blkOut) ∧
        (i.opField = 3 → t.rkCount = t'.rkCount ∧
          ∀ n, n < t.rkCount.toNat → Memory.get t.rkmem n = Memory.get t'.rkmem n)

/-- R22 to R24: BUSY becomes 1 only by an accepted CMD write, and becomes 0 only by the completion step or by reset; in between
the snapshot, CMD, DONE and ERR do not change, so no second command starts. DONE becomes 1, and ERR takes a new value other
than 0, only by a completion step while BUSY = 1. R278, R322: while BUSY = 0 the completion step is not enabled, so a
`complete` event then does nothing (log entry 1). -/
def Obligations.BusyFromAcceptanceToCompletion : Prop :=
  (∀ s t : State, step s = .next t →
    (s.busy = false → t.busy = true → ∃ v es, s.inputs = .write .bits32 0x000 v :: es) ∧
    (s.busy = true → t.busy = false → s.inputs = [] ∨ ∃ es, s.inputs = .complete :: es ∨ s.inputs = .reset :: es) ∧
    (s.busy = true → t.busy = true → t.lat = s.lat ∧ t.cmd = s.cmd ∧ t.done = s.done ∧ t.err = s.err) ∧
    ((s.done = false ∧ t.done = true) ∨ (t.err ≠ s.err ∧ t.err ≠ 0) →
      s.busy = true ∧ (s.inputs = [] ∨ ∃ es, s.inputs = .complete :: es))) ∧
  ∀ (s : State) (es : List Event), s.busy = false → s.inputs = .complete :: es → step s = .next { s with inputs := es }

/-- R28, R31, R32: beside reset, only the completion step of a successful ENC, DEC or FRB command changes BLK_OUT, and only
that of a successful KS command changes RKMEM or RK_COUNT. The completion step is a `complete` event, or the step when no
event is pending (log entry 2). -/
def Obligations.OnlySuccessfulCompletionsChangeOutputs : Prop :=
  ∀ s t : State, step s = .next t → (∀ es, s.inputs ≠ .reset :: es) →
    (t.blkOut ≠ s.blkOut →
      (s.inputs = [] ∨ ∃ es, s.inputs = .complete :: es) ∧
        s.busy = true ∧ validate s.lat = none ∧ ∃ i, decode s.lat.cmd = .ok i ∧ i.opField ≠ 3) ∧
    ((∃ n, Memory.get t.rkmem n ≠ Memory.get s.rkmem n) ∨ t.rkCount ≠ s.rkCount →
      (s.inputs = [] ∨ ∃ es, s.inputs = .complete :: es) ∧
        s.busy = true ∧ validate s.lat = none ∧ ∃ i, decode s.lat.cmd = .ok i ∧ i.opField = 3)

/-- R29, R30: the core never writes KEY or BLK_IN: beside reset, only a bus write to the register itself changes it. -/
def Obligations.OnlyTheHostChangesOperands : Prop :=
  ∀ s t : State, step s = .next t → (∀ es, s.inputs ≠ .reset :: es) →
    (∀ j : Fin 8, t.key[j.val] ≠ s.key[j.val] →
      ∃ v es, s.inputs = .write .bits32 (0x020 + 4 * j.val) v :: es ∧ t.key[j.val] = .of v) ∧
    (∀ j : Fin 4, t.blkIn[j.val] ≠ s.blkIn[j.val] →
      ∃ v es, s.inputs = .write .bits32 (0x040 + 4 * j.val) v :: es ∧ t.blkIn[j.val] = .of v)

/-- R277, R92: a POLL after an accepted command terminates: when the completion step falls after its `k`-th read, `k` reads
return BUSY = 1 and nothing else (R35), and the next read, the last, returns BUSY = 0. -/
def Obligations.PollAfterAcceptanceTerminates : Prop :=
  ∀ (s : State) (k : Nat) (es : List Event), s.Inv → s.busy = true → s.inputs = scriptPoll k ++ es →
    ∃ t last, Sys2Proof.core.run (k + 2) s = .next t ∧ t.busy = false ∧ t.done = true ∧ t.inputs = es ∧
      t.replies = last :: (List.replicate k 0x00000001#32 ++ s.replies) ∧ last.getLsbD 0 = false

/-- R277, R307: when no event is pending, a command in progress completes in the next step; and an Idle core keeps its
state. The choice of this moment is the model's (log entry 2). -/
def Obligations.NothingPendingMeansCompletionOrIdle : Prop :=
  ∀ s : State, s.inputs = [] →
    (s.busy = true → ∃ t, step s = .next t ∧ t.busy = false ∧ t.done = true) ∧ (s.busy = false → step s = .next s)

/-- R41: no step depends on the engine's hidden registers or its internal round-key buffer: with other contents there, the step
has the same outcome but for those contents. -/
def Obligations.NothingReadsTheEngineState : Prop :=
  ∀ (s : State) (e : Engine),
    (∀ t, step s = .next t → ∃ e', step { s with engine := e } = .next { t with engine := e' }) ∧
    (∀ f, step s = .fault f → step { s with engine := e } = .fault f) ∧
    (∀ r, step s = .refused r → step { s with engine := e } = .refused r)

/-! ## Reset -/

/-- R321, R36: after reset the control registers read 0, and a bus read of any data register or RKMEM word returns a draw. That
the draw is `Config.draw 0` and leaves the counter at 1 is the model's choice (log entries 4, 5, 6). -/
def Obligations.ResetValues : Prop :=
  (State.reset.readReg .cmd = some 0 ∧ State.reset.readReg .status = some 0 ∧
    State.reset.readReg .keyLen = some 0 ∧ State.reset.readReg .blkLen = some 0 ∧ State.reset.readReg .rkCount = some 0) ∧
  ∀ r : Reg, (∃ j, r = .key j) ∨ (∃ j, r = .blkIn j) ∨ (∃ j, r = .blkOut j) ∨ (∃ i, r = .rkmem i) →
    State.reset.readReg r = none ∧
      State.reset.busRead .bits32 r.offset = .next { State.reset with replies := [Config.draw 0], draws := 1 }

/-- R320, R322: reset is enabled in every state and gives every register of the window its value after reset, in the middle of a
command too; the command is abandoned, and no BLK_OUT or RKMEM word keeps a value. The pending events, the host's record
and the draw counter are the model's own and are kept (log entries 1, 5). -/
def Obligations.ResetFromAnyState : Prop :=
  ∀ (s : State) (es : List Event), s.inputs = .reset :: es →
    ∃ t, step s = .next t ∧ t.busy = false ∧ t.done = false ∧ t.err = 0 ∧
      (∀ r, t.readReg r = State.reset.readReg r) ∧
      t = { State.reset with inputs := es, replies := s.replies, draws := s.draws }

/-- R323: a command started after reset without writing the lengths fails: with InvalidBlockWidth, or InvalidKeyWidth for a
KS command. -/
def Obligations.FirstCommandWithoutLengthsFails : Prop :=
  ∀ (i : Instr) (es : List Event),
    ∃ t, Sys2Proof.core.run 2
        { State.reset with inputs := .write .bits32 0x000 (encode i) :: .complete :: es } = .next t ∧
      t.reports (if i.opField = 3 then .invalidKeyWidth else .invalidBlockWidth)

/-! ## Invariant -/

/-- The invariant holds after reset. -/
def Obligations.InvariantHoldsAfterReset : Prop := State.reset.Inv

/-- R35: every step keeps the invariant, from every state that meets it. -/
def Obligations.EveryStepKeepsTheInvariant : Prop :=
  ∀ s t : State, s.Inv → step s = .next t → t.Inv

/-! ## Operands -/

/-- R85, R86: the key operand is the first `L` bits of the latched KEY registers and the block operand the first `W` bits of the
latched BLK_IN registers, for every length. -/
def Obligations.OperandsAreTheFirstBitsOfTheRegisters : Prop :=
  ∀ lat : Latch,
    (∀ L, 1 ≤ L → L ≤ 256 → keyOperand L lat = lat.keyReg.extractLsb' (256 - L) L) ∧
    (∀ W, 1 ≤ W → W ≤ 128 → blkOperand W lat = lat.blkReg.extractLsb' (128 - W) W)

/-! ## The commands

For each command: on the lengths it supports, `exec` answers the next state with its result and nothing else changed; on
any other lengths it answers the error outcome of R293. -/

/-- R146. -/
def Obligations.AesEncEffect : Prop :=
  encode .aesEnc = 0x00000011 ∧ ∀ s : State,
    (s.lat.blen = 128 → s.lat.klen = 128 → ∀ C : BitVec 128,
      C = aesEncrypt 10 (s.lat.blk[0] ++ s.lat.blk[1] ++ s.lat.blk[2] ++ s.lat.blk[3])
        (s.lat.key[0] ++ s.lat.key[1] ++ s.lat.key[2] ++ s.lat.key[3]) →
      ∃ t, exec .aesEnc s = .next t ∧
        s.deliversOut t (C.extractLsb' 96 32) (C.extractLsb' 64 32) (C.extractLsb' 32 32) (C.extractLsb' 0 32)) ∧
    (s.lat.blen ≠ 128 → ∃ t, exec .aesEnc s = .next t ∧ s.failsAs t .invalidBlockWidth) ∧
    (s.lat.blen = 128 → s.lat.klen ≠ 128 → ∃ t, exec .aesEnc s = .next t ∧ s.failsAs t .invalidKeyWidth)

/-- R147. -/
def Obligations.AesDecEffect : Prop :=
  encode .aesDec = 0x00000012 ∧ ∀ s : State,
    (s.lat.blen = 128 → s.lat.klen = 128 → ∀ P : BitVec 128,
      P = aesDecrypt 10 (s.lat.blk[0] ++ s.lat.blk[1] ++ s.lat.blk[2] ++ s.lat.blk[3])
        (s.lat.key[0] ++ s.lat.key[1] ++ s.lat.key[2] ++ s.lat.key[3]) →
      ∃ t, exec .aesDec s = .next t ∧
        s.deliversOut t (P.extractLsb' 96 32) (P.extractLsb' 64 32) (P.extractLsb' 32 32) (P.extractLsb' 0 32)) ∧
    (s.lat.blen ≠ 128 → ∃ t, exec .aesDec s = .next t ∧ s.failsAs t .invalidBlockWidth) ∧
    (s.lat.blen = 128 → s.lat.klen ≠ 128 → ∃ t, exec .aesDec s = .next t ∧ s.failsAs t .invalidKeyWidth)

/-- R148: word `j` of round key `i` is RKMEM[4i + j], and RK_COUNT is 44. -/
def Obligations.AesKsEffect : Prop :=
  encode .aesKs = 0x00000013 ∧ ∀ s : State,
    (s.lat.klen = 128 → ∃ t, exec .aesKs s = .next t ∧ s.deliversKeys t 44 ∧
      ∀ i j, i ≤ 10 → j < 4 → Memory.get t.rkmem (4 * i + j) =
        (aesKeySchedule 10 (s.lat.key[0] ++ s.lat.key[1] ++ s.lat.key[2] ++ s.lat.key[3]))[i]?.map
          fun rk => rk.extractLsb' (96 - 32 * j) 32) ∧
    (s.lat.klen ≠ 128 → ∃ t, exec .aesKs s = .next t ∧ s.failsAs t .invalidKeyWidth)

/-- R149: `SBOX[p ⊕ k]` on the first bytes of BLK_IN0 and KEY0, the rest of OUTREG 0. -/
def Obligations.AesFrbEffect : Prop :=
  encode .aesFrb = 0x00000014 ∧ ∀ s : State,
    (s.lat.blen = 8 → s.lat.klen = 8 →
      ∃ t, exec .aesFrb s = .next t ∧
        s.deliversOut t (aesSbox (s.lat.blk[0].extractLsb' 24 8 ^^^ s.lat.key[0].extractLsb' 24 8) ++ 0#24) 0 0 0) ∧
    (s.lat.blen ≠ 8 → ∃ t, exec .aesFrb s = .next t ∧ s.failsAs t .invalidBlockWidth) ∧
    (s.lat.blen = 8 → s.lat.klen ≠ 8 → ∃ t, exec .aesFrb s = .next t ∧ s.failsAs t .invalidKeyWidth)

/-- R182. -/
def Obligations.PresentEncEffect : Prop :=
  encode .presentEnc = 0x00000021 ∧ ∀ s : State,
    (s.lat.blen = 64 → s.lat.klen = 80 → ∀ C : BitVec 64,
      C = presentEncrypt (s.lat.blk[0] ++ s.lat.blk[1]) (s.lat.key[0] ++ s.lat.key[1] ++ s.lat.key[2].extractLsb' 16 16) →
      ∃ t, exec .presentEnc s = .next t ∧ s.deliversOut t (C.extractLsb' 32 32) (C.extractLsb' 0 32) 0 0) ∧
    (s.lat.blen ≠ 64 → ∃ t, exec .presentEnc s = .next t ∧ s.failsAs t .invalidBlockWidth) ∧
    (s.lat.blen = 64 → s.lat.klen ≠ 80 → ∃ t, exec .presentEnc s = .next t ∧ s.failsAs t .invalidKeyWidth)

/-- R183. -/
def Obligations.PresentDecEffect : Prop :=
  encode .presentDec = 0x00000022 ∧ ∀ s : State,
    (s.lat.blen = 64 → s.lat.klen = 80 → ∀ P : BitVec 64,
      P = presentDecrypt (s.lat.blk[0] ++ s.lat.blk[1]) (s.lat.key[0] ++ s.lat.key[1] ++ s.lat.key[2].extractLsb' 16 16) →
      ∃ t, exec .presentDec s = .next t ∧ s.deliversOut t (P.extractLsb' 32 32) (P.extractLsb' 0 32) 0 0) ∧
    (s.lat.blen ≠ 64 → ∃ t, exec .presentDec s = .next t ∧ s.failsAs t .invalidBlockWidth) ∧
    (s.lat.blen = 64 → s.lat.klen ≠ 80 → ∃ t, exec .presentDec s = .next t ∧ s.failsAs t .invalidKeyWidth)

/-- R184: round key `K_{i+1}` is RKMEM[2i] and RKMEM[2i + 1], and RK_COUNT is 64. -/
def Obligations.PresentKsEffect : Prop :=
  encode .presentKs = 0x00000023 ∧ ∀ s : State,
    (s.lat.klen = 80 → ∃ t, exec .presentKs s = .next t ∧ s.deliversKeys t 64 ∧
      ∀ i j, i < 32 → j < 2 → Memory.get t.rkmem (2 * i + j) =
        (presentKeySchedule (s.lat.key[0] ++ s.lat.key[1] ++ s.lat.key[2].extractLsb' 16 16))[i]?.map
          fun rk => rk.extractLsb' (32 - 32 * j) 32) ∧
    (s.lat.klen ≠ 80 → ∃ t, exec .presentKs s = .next t ∧ s.failsAs t .invalidKeyWidth)

/-- R211: the three key lengths. -/
def Obligations.LeaEncEffect : Prop :=
  encode .leaEnc = 0x00000031 ∧ ∀ s : State,
    (s.lat.blen = 128 → ∀ C B : BitVec 128, B = s.lat.blk[0] ++ s.lat.blk[1] ++ s.lat.blk[2] ++ s.lat.blk[3] →
      (s.lat.klen = 128 ∧ C = leaEncrypt 128 B (s.lat.key[0] ++ s.lat.key[1] ++ s.lat.key[2] ++ s.lat.key[3])) ∨
      (s.lat.klen = 192 ∧ C = leaEncrypt 192 B
        (s.lat.key[0] ++ s.lat.key[1] ++ s.lat.key[2] ++ s.lat.key[3] ++ s.lat.key[4] ++ s.lat.key[5])) ∨
      (s.lat.klen = 256 ∧ C = leaEncrypt 256 B
        (s.lat.key[0] ++ s.lat.key[1] ++ s.lat.key[2] ++ s.lat.key[3] ++ s.lat.key[4] ++ s.lat.key[5] ++ s.lat.key[6] ++
          s.lat.key[7])) →
      ∃ t, exec .leaEnc s = .next t ∧
        s.deliversOut t (C.extractLsb' 96 32) (C.extractLsb' 64 32) (C.extractLsb' 32 32) (C.extractLsb' 0 32)) ∧
    (s.lat.blen ≠ 128 → ∃ t, exec .leaEnc s = .next t ∧ s.failsAs t .invalidBlockWidth) ∧
    (s.lat.blen = 128 → s.lat.klen ≠ 128 → s.lat.klen ≠ 192 → s.lat.klen ≠ 256 →
      ∃ t, exec .leaEnc s = .next t ∧ s.failsAs t .invalidKeyWidth)

/-- R212: the three key lengths. -/
def Obligations.LeaDecEffect : Prop :=
  encode .leaDec = 0x00000032 ∧ ∀ s : State,
    (s.lat.blen = 128 → ∀ P C : BitVec 128, C = s.lat.blk[0] ++ s.lat.blk[1] ++ s.lat.blk[2] ++ s.lat.blk[3] →
      (s.lat.klen = 128 ∧ P = leaDecrypt 128 C (s.lat.key[0] ++ s.lat.key[1] ++ s.lat.key[2] ++ s.lat.key[3])) ∨
      (s.lat.klen = 192 ∧ P = leaDecrypt 192 C
        (s.lat.key[0] ++ s.lat.key[1] ++ s.lat.key[2] ++ s.lat.key[3] ++ s.lat.key[4] ++ s.lat.key[5])) ∨
      (s.lat.klen = 256 ∧ P = leaDecrypt 256 C
        (s.lat.key[0] ++ s.lat.key[1] ++ s.lat.key[2] ++ s.lat.key[3] ++ s.lat.key[4] ++ s.lat.key[5] ++ s.lat.key[6] ++
          s.lat.key[7])) →
      ∃ t, exec .leaDec s = .next t ∧
        s.deliversOut t (P.extractLsb' 96 32) (P.extractLsb' 64 32) (P.extractLsb' 32 32) (P.extractLsb' 0 32)) ∧
    (s.lat.blen ≠ 128 → ∃ t, exec .leaDec s = .next t ∧ s.failsAs t .invalidBlockWidth) ∧
    (s.lat.blen = 128 → s.lat.klen ≠ 128 → s.lat.klen ≠ 192 → s.lat.klen ≠ 256 →
      ∃ t, exec .leaDec s = .next t ∧ s.failsAs t .invalidKeyWidth)

/-- R213: word `j` of round key `i` is RKMEM[6i + j], and RK_COUNT is 144, 168 or 192. -/
def Obligations.LeaKsEffect : Prop :=
  encode .leaKs = 0x00000033 ∧ ∀ s : State,
    (∀ (R : Nat) (rks : List LeaRoundKey),
      (s.lat.klen = 128 ∧ R = 24 ∧
        rks = leaKeySchedule 128 (s.lat.key[0] ++ s.lat.key[1] ++ s.lat.key[2] ++ s.lat.key[3])) ∨
      (s.lat.klen = 192 ∧ R = 28 ∧ rks = leaKeySchedule 192
        (s.lat.key[0] ++ s.lat.key[1] ++ s.lat.key[2] ++ s.lat.key[3] ++ s.lat.key[4] ++ s.lat.key[5])) ∨
      (s.lat.klen = 256 ∧ R = 32 ∧ rks = leaKeySchedule 256
        (s.lat.key[0] ++ s.lat.key[1] ++ s.lat.key[2] ++ s.lat.key[3] ++ s.lat.key[4] ++ s.lat.key[5] ++ s.lat.key[6] ++
          s.lat.key[7])) →
      ∃ t, exec .leaKs s = .next t ∧ s.deliversKeys t (6 * R) ∧
        ∀ i < R, ∃ rk, rks[i]? = some rk ∧
          Memory.get t.rkmem (6 * i) = some rk.k0 ∧ Memory.get t.rkmem (6 * i + 1) = some rk.k1 ∧
          Memory.get t.rkmem (6 * i + 2) = some rk.k2 ∧ Memory.get t.rkmem (6 * i + 3) = some rk.k3 ∧
          Memory.get t.rkmem (6 * i + 4) = some rk.k4 ∧ Memory.get t.rkmem (6 * i + 5) = some rk.k5) ∧
    (s.lat.klen ≠ 128 → s.lat.klen ≠ 192 → s.lat.klen ≠ 256 →
      ∃ t, exec .leaKs s = .next t ∧ s.failsAs t .invalidKeyWidth)

/-- R244: the two key lengths. -/
def Obligations.PiccoloEncEffect : Prop :=
  encode .piccoloEnc = 0x00000041 ∧ ∀ s : State,
    (s.lat.blen = 64 → ∀ C : BitVec 64,
      (s.lat.klen = 80 ∧ C = piccoloEncrypt 80 (s.lat.blk[0] ++ s.lat.blk[1])
        (s.lat.key[0] ++ s.lat.key[1] ++ s.lat.key[2].extractLsb' 16 16)) ∨
      (s.lat.klen = 128 ∧ C = piccoloEncrypt 128 (s.lat.blk[0] ++ s.lat.blk[1])
        (s.lat.key[0] ++ s.lat.key[1] ++ s.lat.key[2] ++ s.lat.key[3])) →
      ∃ t, exec .piccoloEnc s = .next t ∧ s.deliversOut t (C.extractLsb' 32 32) (C.extractLsb' 0 32) 0 0) ∧
    (s.lat.blen ≠ 64 → ∃ t, exec .piccoloEnc s = .next t ∧ s.failsAs t .invalidBlockWidth) ∧
    (s.lat.blen = 64 → s.lat.klen ≠ 80 → s.lat.klen ≠ 128 →
      ∃ t, exec .piccoloEnc s = .next t ∧ s.failsAs t .invalidKeyWidth)

/-- R245: the two key lengths. -/
def Obligations.PiccoloDecEffect : Prop :=
  encode .piccoloDec = 0x00000042 ∧ ∀ s : State,
    (s.lat.blen = 64 → ∀ P : BitVec 64,
      (s.lat.klen = 80 ∧ P = piccoloDecrypt 80 (s.lat.blk[0] ++ s.lat.blk[1])
        (s.lat.key[0] ++ s.lat.key[1] ++ s.lat.key[2].extractLsb' 16 16)) ∨
      (s.lat.klen = 128 ∧ P = piccoloDecrypt 128 (s.lat.blk[0] ++ s.lat.blk[1])
        (s.lat.key[0] ++ s.lat.key[1] ++ s.lat.key[2] ++ s.lat.key[3])) →
      ∃ t, exec .piccoloDec s = .next t ∧ s.deliversOut t (P.extractLsb' 32 32) (P.extractLsb' 0 32) 0 0) ∧
    (s.lat.blen ≠ 64 → ∃ t, exec .piccoloDec s = .next t ∧ s.failsAs t .invalidBlockWidth) ∧
    (s.lat.blen = 64 → s.lat.klen ≠ 80 → s.lat.klen ≠ 128 →
      ∃ t, exec .piccoloDec s = .next t ∧ s.failsAs t .invalidKeyWidth)

/-- R246: the whitening keys are RKMEM[0] and RKMEM[1], the pair of round `i` is RKMEM[2 + i], and RK_COUNT is 27 or 33. -/
def Obligations.PiccoloKsEffect : Prop :=
  encode .piccoloKs = 0x00000043 ∧ ∀ s : State,
    (∀ (r : Nat) (ks : PiccoloKeys),
      (s.lat.klen = 80 ∧ r = 25 ∧
        ks = piccoloKeySchedule 80 (s.lat.key[0] ++ s.lat.key[1] ++ s.lat.key[2].extractLsb' 16 16)) ∨
      (s.lat.klen = 128 ∧ r = 31 ∧
        ks = piccoloKeySchedule 128 (s.lat.key[0] ++ s.lat.key[1] ++ s.lat.key[2] ++ s.lat.key[3])) →
      ∃ t, exec .piccoloKs s = .next t ∧ s.deliversKeys t (r + 2) ∧
        Memory.get t.rkmem 0 = some (ks.wk.e0 ++ ks.wk.e1) ∧ Memory.get t.rkmem 1 = some (ks.wk.e2 ++ ks.wk.e3) ∧
        ∀ i < r, ∃ p, ks.rk[i]? = some p ∧ Memory.get t.rkmem (2 + i) = some (p.1 ++ p.2)) ∧
    (s.lat.klen ≠ 80 → s.lat.klen ≠ 128 → ∃ t, exec .piccoloKs s = .next t ∧ s.failsAs t .invalidKeyWidth)

/-! ## The engines -/

/-- R100, R101: bit `i` of a rotation, by any amount. R102: rotating left by `n` is rotating right by `w - n`. R103, R104: addition
and subtraction wrap modulo 2^32, and the one undoes the other. -/
def Obligations.RotationAndModularArithmetic : Prop :=
  (∀ (w n i : Nat) (x : BitVec w), i < w →
    (rol x n).getLsbD i = x.getLsbD ((i + w - n % w) % w) ∧ (ror x n).getLsbD i = x.getLsbD ((i + n) % w)) ∧
  (∀ (w n : Nat) (x : BitVec w), n ≤ w → rol x n = ror x (w - n)) ∧
  ∀ a b : Word, (add32 a b).toNat = (a.toNat + b.toNat) % 2 ^ 32 ∧
    (sub32 a b).toNat = (a.toNat + 2 ^ 32 - b.toNat) % 2 ^ 32 ∧ sub32 (add32 a b) b = a

/-- R107: `xtime8` by its formula, and every multiply-by-constant shortcut equals `gmul8`. -/
def Obligations.MultiplyShortcutsAgree : Prop :=
  ∀ a : Byte,
    xtime8 a = ((a.setWidth 9 <<< 1) ^^^ (if a.getLsbD 7 then 0x11B#9 else 0#9)).setWidth 8 ∧
    xtime8 a = gmul8 a 2 ∧ xtime8 a ^^^ a = gmul8 a 3 ∧ xtime8 (xtime8 a) = gmul8 a 4 ∧
    xtime8 (xtime8 (xtime8 a)) = gmul8 a 8 ∧ xtime8 (xtime8 (xtime8 a)) ^^^ a = gmul8 a 9 ∧
    xtime8 (xtime8 (xtime8 a)) ^^^ xtime8 a ^^^ a = gmul8 a 11 ∧
    xtime8 (xtime8 (xtime8 a)) ^^^ xtime8 (xtime8 a) ^^^ a = gmul8 a 13 ∧
    xtime8 (xtime8 (xtime8 a)) ^^^ xtime8 (xtime8 a) ^^^ xtime8 a = gmul8 a 14

/-- R110: element `j` of the bit sequence of an `N`-bit value is its bit `N-1-j`, and the two conversions are inverse. -/
def Obligations.BitSequenceConversions : Prop :=
  (∀ (w : Nat) (v : BitVec w), (intToBits v).length = w ∧
    (∀ j, j < w → (intToBits v)[j]? = some (v.getLsbD (w - 1 - j))) ∧ bitsToInt (intToBits v) = v.toNat) ∧
  (∀ bs : List Bool, intToBits (BitVec.ofNat bs.length (bitsToInt bs)) = bs)

/-- R131: the S-box table is the affine image of the inverse in GF(2^8). -/
def Obligations.AesSboxIsTheAlgebraicOne : Prop :=
  ∀ x : Byte, ∃ b : Byte, (x = 0 → b = 0) ∧ (x ≠ 0 → gmul8 x b = 1) ∧
    aesSbox x = b ^^^ rol b 1 ^^^ rol b 2 ^^^ rol b 3 ^^^ rol b 4 ^^^ 0x63

/-- R133: `s[r][c]` is byte `r + 4c` of the block, counted from its most significant end. R136, R137: the two row shifts, as the
index formulas of the rules. -/
def Obligations.AesStateLayoutAndRowShifts : Prop :=
  (∀ (B : BitVec 128) (r c : Fin 4),
    aesAt (aesState B) r c = B.extractLsb' (120 - 8 * (r.val + 4 * c.val)) 8 ∧ aesBlock (aesState B) = B) ∧
  ∀ (s : AesState) (r c : Fin 4),
    aesAt (shiftRows s) r c = aesAt s r (c + r) ∧ aesAt (invShiftRows s) r c = aesAt s r (c - r) ∧
      invShiftRows (shiftRows s) = s

/-- R144: decryption inverts encryption for every block, every key and every round count from 1 on. -/
def Obligations.AesDecryptInvertsEncrypt : Prop :=
  ∀ (R : Nat) (p k : BitVec 128), 1 ≤ R → aesDecrypt R (aesEncrypt R p k) k = p

/-- R174, R175: the S-box layers, nibble by nibble, and the one inverts the other. -/
def Obligations.PresentSBoxLayersByNibble : Prop :=
  ∀ (s : BitVec 64),
    (∀ k, k < 16 → (sBoxLayer s).extractLsb' (4 * k) 4 = presentSbox (s.extractLsb' (4 * k) 4) ∧
      (invSBoxLayer s).extractLsb' (4 * k) 4 = presentInvSbox (s.extractLsb' (4 * k) 4)) ∧
    invSBoxLayer (sBoxLayer s) = s

/-- R176, R177: the permutation moves bit `i` to bit `16·i mod 63`, and bit 63 to itself; the inverse permutation takes it
back. -/
def Obligations.PresentPermutationMovesEachBit : Prop :=
  ∀ (s : BitVec 64),
    (∀ i, i < 64 → (pLayer s).getLsbD (if i < 63 then 16 * i % 63 else 63) = s.getLsbD i ∧
      (invPLayer s).getLsbD i = s.getLsbD (if i < 63 then 16 * i % 63 else 63)) ∧
    invPLayer (pLayer s) = s

/-- R181: decryption inverts encryption for every block and key. -/
def Obligations.PresentDecryptInvertsEncrypt : Prop :=
  ∀ (p : BitVec 64) (K : BitVec 80), presentDecrypt (presentEncrypt p K) K = p

/-- R208: decryption inverts encryption for every block and every key of the three lengths. -/
def Obligations.LeaDecryptInvertsEncrypt : Prop :=
  ∀ (L : Nat) (B : BitVec 128) (K : BitVec L), L = 128 ∨ L = 192 ∨ L = 256 → leaDecrypt L (leaEncrypt L B K) K = B

/-- R233: the round permutation on the eight bytes of the state. -/
def Obligations.PiccoloRoundPermutationByBytes : Prop :=
  ∀ (X : Quad HalfWord) (x0 x1 x2 x3 x4 x5 x6 x7 : Byte),
    splitList 8 8 (join16 X) = [x0, x1, x2, x3, x4, x5, x6, x7] →
    splitList 8 8 (join16 (piccoloRP X)) = [x2, x7, x4, x1, x6, x3, x0, x5]

/-- R241: decryption inverts encryption for every block and every key of the two lengths. -/
def Obligations.PiccoloDecryptInvertsEncrypt : Prop :=
  ∀ (L : Nat) (B : BitVec 64) (K : BitVec L), L = 80 ∨ L = 128 → piccoloDecrypt L (piccoloEncrypt L B K) K = B

/-- R280: after a successful ENC of a block, the DEC of what the first `W` bits of BLK_OUT hold, under the same key and lengths,
leaves the block in OUTREG, for each of the four ciphers and every supported key length. The DEC is any completion `s'`
whose snapshot has the same key and lengths and, as the first `W` bits of its block, the words that BLK_OUT returned;
what the rest of its block register holds is left open. -/
def Obligations.EncryptThenDecryptRestoresTheBlock : Prop :=
  ∀ (enc dec : Instr) (s s' t : State),
    (enc, dec) ∈ [(Instr.aesEnc, Instr.aesDec), (.presentEnc, .presentDec), (.leaEnc, .leaDec), (.piccoloEnc, .piccoloDec)] →
    validateLengths enc s.lat = none → exec enc s = .next t →
    s'.lat.key = s.lat.key → s'.lat.klen = s.lat.klen → s'.lat.blen = s.lat.blen →
    (∀ j : Fin 4, 32 * j.val < s.lat.blen.toNat → t.readReg (.blkOut j) = some s'.lat.blk[j.val]) →
    ∃ t', exec dec s' = .next t' ∧ t'.resultReady ∧
      ∀ j : Fin 4, t'.readReg (.blkOut j) = some (if 32 * j.val < s.lat.blen.toNat then s.lat.blk[j.val] else 0)
end

