-- ==== Sys2Proof/Laws/Prims.lean ====
section
/-! SUPPORT. The laws of the shared primitives that the engines' proofs rest on: rotations undo each other, splitting and
joining undo each other. -/

namespace Sys2Proof.Machine

theorem Quad.map_map {α β γ : Type} (f : α → β) (g : β → γ) (q : Quad α) : (q.map f).map g = q.map (g ∘ f) := rfl

theorem Quad.map_eq_self {α : Type} {f : α → α} (h : ∀ a, f a = a) (q : Quad α) : q.map f = q := by
  cases q; simp [Quad.map, h]

theorem rol_eq_rotateLeft {w : Nat} (x : BitVec w) (n : Nat) : rol x n = x.rotateLeft n := rfl

/-- R101, R102: rotating left and then right by the same amount gives the value back. -/
theorem ror_rol {w : Nat} (x : BitVec w) (n : Nat) : ror (rol x n) n = x := by
  rw [ror, rol_eq_rotateLeft, rol_eq_rotateLeft]
  ext i hi
  have hm := Nat.mod_lt n (Nat.zero_lt_of_lt hi)
  simp only [← BitVec.getLsbD_eq_getElem, BitVec.getLsbD_rotateLeft, Nat.mod_mod, Bool.cond_eq_ite, decide_eq_true_eq]
  generalize n % w = m at hm
  rcases Nat.eq_zero_or_pos m with h0 | h0
  · simp [h0, hi]
  · have e : (w - m) % w = w - m := Nat.mod_eq_of_lt (by omega)
    rw [e]
    split
    · rw [if_neg (by omega)]
      simp only [show w - (w - m) + i < w by omega, decide_true, Bool.true_and]
      congr 1; omega
    · simp only [hi, decide_true, Bool.true_and]
      rw [if_pos (by omega)]
      congr 1; omega

/-- R101, R102: rotating right and then left by the same amount gives the value back. -/
theorem rol_ror {w : Nat} (x : BitVec w) (n : Nat) : rol (ror x n) n = x := by
  rw [ror, rol_eq_rotateLeft, rol_eq_rotateLeft]
  ext i hi
  have hm := Nat.mod_lt n (Nat.zero_lt_of_lt hi)
  simp only [← BitVec.getLsbD_eq_getElem, BitVec.getLsbD_rotateLeft, Nat.mod_mod, Bool.cond_eq_ite, decide_eq_true_eq]
  generalize n % w = m at hm
  rcases Nat.eq_zero_or_pos m with h0 | h0
  · simp [h0, hi]
  · have e : (w - m) % w = w - m := Nat.mod_eq_of_lt (by omega)
    rw [e]
    split
    · rw [if_neg (by omega)]
      simp only [show w - m + i < w by omega, decide_true, Bool.true_and]
      congr 1; omega
    · simp only [hi, decide_true, Bool.true_and]
      rw [if_pos (by omega)]
      congr 1; omega

theorem sub32_add32 (a b : Word) : sub32 (add32 a b) b = a := by
  simp [sub32, add32]

theorem xor_cancel_right {w : Nat} (a b : BitVec w) : a ^^^ b ^^^ b = a := by
  rw [BitVec.xor_assoc, BitVec.xor_self, BitVec.xor_zero]

/-- R111: `split_e` of four joined elements gives them back. -/
theorem split4_append {e : Nat} (a b c d : BitVec e) : split4 e (a ++ b ++ c ++ d) = ⟨a, b, c, d⟩ := by
  simp only [split4, Quad.mk.injEq]
  refine ⟨?_, ?_, ?_, ?_⟩ <;> ext i hi <;>
    simp only [← BitVec.getLsbD_eq_getElem, BitVec.getLsbD_extractLsb', BitVec.getLsbD_append, hi, decide_true,
      Bool.true_and] <;>
    repeat' split
  all_goals first | (exfalso; omega) | (congr 1; omega)

theorem split4_join4 (q : Quad Nibble) : split4 4 (join4 q) = q := split4_append _ _ _ _
theorem split4_join8 (q : Quad Byte) : split4 8 (join8 q) = q := split4_append _ _ _ _
theorem split4_join16 (q : Quad HalfWord) : split4 16 (join16 q) = q := split4_append _ _ _ _
theorem split4_join32 (q : Quad Word) : split4 32 (join32 q) = q := split4_append _ _ _ _

/-- R111: joining what `split_e` gives restores the value. -/
theorem append_split4 {e : Nat} (v : BitVec (e + e + e + e)) :
    (split4 e v).e0 ++ (split4 e v).e1 ++ (split4 e v).e2 ++ (split4 e v).e3 = v := by
  ext i hi
  simp only [split4, ← BitVec.getLsbD_eq_getElem, BitVec.getLsbD_append, BitVec.getLsbD_extractLsb']
  repeat' split
  all_goals
    rw [decide_eq_true (by omega), Bool.true_and]
    congr 1
    omega

theorem join4_split4 (v : HalfWord) : join4 (split4 4 v) = v := append_split4 (e := 4) v
theorem join8_split4 (v : Word) : join8 (split4 8 v) = v := append_split4 (e := 8) v
theorem join16_split4 (v : BitVec 64) : join16 (split4 16 v) = v := append_split4 (e := 16) v
theorem join32_split4 (v : BitVec 128) : join32 (split4 32 v) = v := append_split4 (e := 32) v

end Sys2Proof.Machine
end

