-- ==== Sys2Proof/Laws/Aes.lean ====
section
/-! SUPPORT. Each AES round function is undone by its inverse (R135, R137, R139, R140). -/

namespace Sys2Proof.Machine

/-- R132. -/
theorem aesInvSbox_aesSbox : ∀ x : Byte, aesInvSbox (aesSbox x) = x := by decide +kernel

theorem invSubBytes_subBytes (s : AesState) : invSubBytes (subBytes s) = s :=
  Quad.map_eq_self (Quad.map_eq_self aesInvSbox_aesSbox) s

theorem invShiftRows_shiftRows (s : AesState) : invShiftRows (shiftRows s) = s := rfl

theorem aesAddRoundKey_self (s : AesState) (rk : BitVec 128) : aesAddRoundKey (aesAddRoundKey s rk) rk = s := by
  rcases s with ⟨⟨_, _, _, _⟩, ⟨_, _, _, _⟩, ⟨_, _, _, _⟩, ⟨_, _, _, _⟩⟩
  simp [aesAddRoundKey, Quad.zipWith]

theorem aesBlock_aesState (B : BitVec 128) : aesBlock (aesState B) = B := by
  rw [aesBlock, aesState, Quad.map_map, Quad.map_eq_self (f := join8 ∘ split4 8) join8_split4, join32_split4]

theorem aesState_aesBlock (s : AesState) : aesState (aesBlock s) = s := by
  rw [aesBlock, aesState, split4_join32, Quad.map_map, Quad.map_eq_self (f := split4 8 ∘ join8) split4_join8]

/-! Multiplication distributes over ⊕ in its second operand; the entries of INVMIX · MIX are those of the unit matrix. -/

theorem gmul8Loop_xor (n : Nat) (a b b' p p' : Byte) :
    gmul8Loop n a (b ^^^ b') (p ^^^ p') = gmul8Loop n a b p ^^^ gmul8Loop n a b' p' := by
  induction n generalizing a b b' p p' with
  | zero => rfl
  | succ n ih =>
    simp only [gmul8Loop, BitVec.ushiftRight_xor_distrib, BitVec.getLsbD_xor]
    rw [← ih]
    congr 1
    cases b.getLsbD 0 <;> cases b'.getLsbD 0 <;> simp <;> ac_nf
    simp

theorem gmul8_xor (a b b' : Byte) : gmul8 a (b ^^^ b') = gmul8 a b ^^^ gmul8 a b' := by
  simpa [gmul8] using gmul8Loop_xor 8 a b b' 0 0

/-- The sixteen entries of INVMIX · MIX (R139). -/
theorem invMix_mix_entries : ∀ a : Byte,
    (gmul8 14 (gmul8 2 a) ^^^ gmul8 11 (gmul8 1 a) ^^^ gmul8 13 (gmul8 1 a) ^^^ gmul8 9 (gmul8 3 a) = a ∧
      gmul8 14 (gmul8 3 a) ^^^ gmul8 11 (gmul8 2 a) ^^^ gmul8 13 (gmul8 1 a) ^^^ gmul8 9 (gmul8 1 a) = 0 ∧
      gmul8 14 (gmul8 1 a) ^^^ gmul8 11 (gmul8 3 a) ^^^ gmul8 13 (gmul8 2 a) ^^^ gmul8 9 (gmul8 1 a) = 0 ∧
      gmul8 14 (gmul8 1 a) ^^^ gmul8 11 (gmul8 1 a) ^^^ gmul8 13 (gmul8 3 a) ^^^ gmul8 9 (gmul8 2 a) = 0) ∧
    (gmul8 9 (gmul8 2 a) ^^^ gmul8 14 (gmul8 1 a) ^^^ gmul8 11 (gmul8 1 a) ^^^ gmul8 13 (gmul8 3 a) = 0 ∧
      gmul8 9 (gmul8 3 a) ^^^ gmul8 14 (gmul8 2 a) ^^^ gmul8 11 (gmul8 1 a) ^^^ gmul8 13 (gmul8 1 a) = a ∧
      gmul8 9 (gmul8 1 a) ^^^ gmul8 14 (gmul8 3 a) ^^^ gmul8 11 (gmul8 2 a) ^^^ gmul8 13 (gmul8 1 a) = 0 ∧
      gmul8 9 (gmul8 1 a) ^^^ gmul8 14 (gmul8 1 a) ^^^ gmul8 11 (gmul8 3 a) ^^^ gmul8 13 (gmul8 2 a) = 0) ∧
    (gmul8 13 (gmul8 2 a) ^^^ gmul8 9 (gmul8 1 a) ^^^ gmul8 14 (gmul8 1 a) ^^^ gmul8 11 (gmul8 3 a) = 0 ∧
      gmul8 13 (gmul8 3 a) ^^^ gmul8 9 (gmul8 2 a) ^^^ gmul8 14 (gmul8 1 a) ^^^ gmul8 11 (gmul8 1 a) = 0 ∧
      gmul8 13 (gmul8 1 a) ^^^ gmul8 9 (gmul8 3 a) ^^^ gmul8 14 (gmul8 2 a) ^^^ gmul8 11 (gmul8 1 a) = a ∧
      gmul8 13 (gmul8 1 a) ^^^ gmul8 9 (gmul8 1 a) ^^^ gmul8 14 (gmul8 3 a) ^^^ gmul8 11 (gmul8 2 a) = 0) ∧
    (gmul8 11 (gmul8 2 a) ^^^ gmul8 13 (gmul8 1 a) ^^^ gmul8 9 (gmul8 1 a) ^^^ gmul8 14 (gmul8 3 a) = 0 ∧
      gmul8 11 (gmul8 3 a) ^^^ gmul8 13 (gmul8 2 a) ^^^ gmul8 9 (gmul8 1 a) ^^^ gmul8 14 (gmul8 1 a) = 0 ∧
      gmul8 11 (gmul8 1 a) ^^^ gmul8 13 (gmul8 3 a) ^^^ gmul8 9 (gmul8 2 a) ^^^ gmul8 14 (gmul8 1 a) = 0 ∧
      gmul8 11 (gmul8 1 a) ^^^ gmul8 13 (gmul8 1 a) ^^^ gmul8 9 (gmul8 3 a) ^^^ gmul8 14 (gmul8 2 a) = a) := by
  decide +kernel

/-- Summing a 4×4 arrangement by rows or by columns is the same. -/
theorem xor_transpose {w : Nat} (a b c d a' b' c' d' a'' b'' c'' d'' x y z t : BitVec w) :
    (a ^^^ b ^^^ c ^^^ d) ^^^ (a' ^^^ b' ^^^ c' ^^^ d') ^^^ (a'' ^^^ b'' ^^^ c'' ^^^ d'') ^^^ (x ^^^ y ^^^ z ^^^ t) =
    (a ^^^ a' ^^^ a'' ^^^ x) ^^^ (b ^^^ b' ^^^ b'' ^^^ y) ^^^ (c ^^^ c' ^^^ c'' ^^^ z) ^^^ (d ^^^ d' ^^^ d'' ^^^ t) := by
  ac_rfl

theorem invMix_mix (v : Quad Byte) : matmul gmul8 aesInvMix (matmul gmul8 aesMix v) = v := by
  rcases v with ⟨a, b, c, d⟩
  simp only [matmul, Quad.map, dotRow, aesMix, aesInvMix, gmul8_xor, Quad.mk.injEq]
  obtain ⟨⟨a0, -, -, -⟩, ⟨a1, -, -, -⟩, ⟨a2, -, -, -⟩, ⟨a3, -, -, -⟩⟩ := invMix_mix_entries a
  obtain ⟨⟨-, b0, -, -⟩, ⟨-, b1, -, -⟩, ⟨-, b2, -, -⟩, ⟨-, b3, -, -⟩⟩ := invMix_mix_entries b
  obtain ⟨⟨-, -, c0, -⟩, ⟨-, -, c1, -⟩, ⟨-, -, c2, -⟩, ⟨-, -, c3, -⟩⟩ := invMix_mix_entries c
  obtain ⟨⟨-, -, -, d0⟩, ⟨-, -, -, d1⟩, ⟨-, -, -, d2⟩, ⟨-, -, -, d3⟩⟩ := invMix_mix_entries d
  refine ⟨?_, ?_, ?_, ?_⟩
  · rw [xor_transpose, a0, b0, c0, d0]; simp
  · rw [xor_transpose, a1, b1, c1, d1]; simp
  · rw [xor_transpose, a2, b2, c2, d2]; simp
  · rw [xor_transpose, a3, b3, c3, d3]; simp

theorem invMixColumns_mixColumns (s : AesState) : invMixColumns (mixColumns s) = s :=
  Quad.map_eq_self invMix_mix s

end Sys2Proof.Machine
end

