-- ==== Sys2Proof/Laws/State.lean ====
section
/-! SUPPORT. One lemma for each field of the state and each update of it, so that no proof unfolds a record update. -/

namespace Sys2Proof.Machine

/-! `State.accept` (R270) -/

@[simp] theorem State.accept_cmd (s : State) (v : Word) : (s.accept v).cmd = v := rfl
@[simp] theorem State.accept_busy (s : State) (v : Word) : (s.accept v).busy = true := rfl
@[simp] theorem State.accept_done (s : State) (v : Word) : (s.accept v).done = false := rfl
@[simp] theorem State.accept_err (s : State) (v : Word) : (s.accept v).err = 0 := rfl
@[simp] theorem State.accept_keyLen (s : State) (v : Word) : (s.accept v).keyLen = s.keyLen := rfl
@[simp] theorem State.accept_blkLen (s : State) (v : Word) : (s.accept v).blkLen = s.blkLen := rfl
@[simp] theorem State.accept_rkCount (s : State) (v : Word) : (s.accept v).rkCount = s.rkCount := rfl
@[simp] theorem State.accept_key (s : State) (v : Word) : (s.accept v).key = s.key := rfl
@[simp] theorem State.accept_blkIn (s : State) (v : Word) : (s.accept v).blkIn = s.blkIn := rfl
@[simp] theorem State.accept_blkOut (s : State) (v : Word) : (s.accept v).blkOut = s.blkOut := rfl
@[simp] theorem State.accept_rkmem (s : State) (v : Word) : (s.accept v).rkmem = s.rkmem := rfl
@[simp] theorem State.accept_lat (s : State) (v : Word) : (s.accept v).lat = s.snapshot v := rfl
@[simp] theorem State.accept_engine (s : State) (v : Word) : (s.accept v).engine = s.engine := rfl
@[simp] theorem State.accept_inputs (s : State) (v : Word) : (s.accept v).inputs = s.inputs := rfl
@[simp] theorem State.accept_replies (s : State) (v : Word) : (s.accept v).replies = s.replies := rfl
@[simp] theorem State.accept_draws (s : State) (v : Word) : (s.accept v).draws = s.draws + 12 := rfl

/-! `State.raiseError` (R293) -/

@[simp] theorem State.raiseError_cmd (s : State) (e : ErrorKind) : (s.raiseError e).cmd = s.cmd := rfl
@[simp] theorem State.raiseError_busy (s : State) (e : ErrorKind) : (s.raiseError e).busy = false := rfl
@[simp] theorem State.raiseError_done (s : State) (e : ErrorKind) : (s.raiseError e).done = true := rfl
@[simp] theorem State.raiseError_err (s : State) (e : ErrorKind) : (s.raiseError e).err = e.code := rfl
@[simp] theorem State.raiseError_keyLen (s : State) (e : ErrorKind) : (s.raiseError e).keyLen = s.keyLen := rfl
@[simp] theorem State.raiseError_blkLen (s : State) (e : ErrorKind) : (s.raiseError e).blkLen = s.blkLen := rfl
@[simp] theorem State.raiseError_rkCount (s : State) (e : ErrorKind) : (s.raiseError e).rkCount = s.rkCount := rfl
@[simp] theorem State.raiseError_key (s : State) (e : ErrorKind) : (s.raiseError e).key = s.key := rfl
@[simp] theorem State.raiseError_blkIn (s : State) (e : ErrorKind) : (s.raiseError e).blkIn = s.blkIn := rfl
@[simp] theorem State.raiseError_blkOut (s : State) (e : ErrorKind) : (s.raiseError e).blkOut = s.blkOut := rfl
@[simp] theorem State.raiseError_rkmem (s : State) (e : ErrorKind) : (s.raiseError e).rkmem = s.rkmem := rfl
@[simp] theorem State.raiseError_lat (s : State) (e : ErrorKind) : (s.raiseError e).lat = s.lat := rfl
@[simp] theorem State.raiseError_engine (s : State) (e : ErrorKind) : (s.raiseError e).engine = s.engine := rfl
@[simp] theorem State.raiseError_inputs (s : State) (e : ErrorKind) : (s.raiseError e).inputs = s.inputs := rfl
@[simp] theorem State.raiseError_replies (s : State) (e : ErrorKind) : (s.raiseError e).replies = s.replies := rfl
@[simp] theorem State.raiseError_draws (s : State) (e : ErrorKind) : (s.raiseError e).draws = s.draws := rfl

/-! `State.succeed` (R273) -/

@[simp] theorem State.succeed_cmd (s : State) : s.succeed.cmd = s.cmd := rfl
@[simp] theorem State.succeed_busy (s : State) : s.succeed.busy = false := rfl
@[simp] theorem State.succeed_done (s : State) : s.succeed.done = true := rfl
@[simp] theorem State.succeed_err (s : State) : s.succeed.err = 0 := rfl
@[simp] theorem State.succeed_keyLen (s : State) : s.succeed.keyLen = s.keyLen := rfl
@[simp] theorem State.succeed_blkLen (s : State) : s.succeed.blkLen = s.blkLen := rfl
@[simp] theorem State.succeed_rkCount (s : State) : s.succeed.rkCount = s.rkCount := rfl
@[simp] theorem State.succeed_key (s : State) : s.succeed.key = s.key := rfl
@[simp] theorem State.succeed_blkIn (s : State) : s.succeed.blkIn = s.blkIn := rfl
@[simp] theorem State.succeed_blkOut (s : State) : s.succeed.blkOut = s.blkOut := rfl
@[simp] theorem State.succeed_rkmem (s : State) : s.succeed.rkmem = s.rkmem := rfl
@[simp] theorem State.succeed_lat (s : State) : s.succeed.lat = s.lat := rfl
@[simp] theorem State.succeed_inputs (s : State) : s.succeed.inputs = s.inputs := rfl
@[simp] theorem State.succeed_replies (s : State) : s.succeed.replies = s.replies := rfl
@[simp] theorem State.succeed_draws (s : State) : s.succeed.draws = s.draws + 1 := rfl

/-! `State.writeOut` (R87) -/

@[simp] theorem State.writeOut_cmd {W : Nat} (s : State) (R : BitVec W) : (s.writeOut R).cmd = s.cmd := rfl
@[simp] theorem State.writeOut_busy {W : Nat} (s : State) (R : BitVec W) : (s.writeOut R).busy = s.busy := rfl
@[simp] theorem State.writeOut_done {W : Nat} (s : State) (R : BitVec W) : (s.writeOut R).done = s.done := rfl
@[simp] theorem State.writeOut_err {W : Nat} (s : State) (R : BitVec W) : (s.writeOut R).err = s.err := rfl
@[simp] theorem State.writeOut_keyLen {W : Nat} (s : State) (R : BitVec W) : (s.writeOut R).keyLen = s.keyLen := rfl
@[simp] theorem State.writeOut_blkLen {W : Nat} (s : State) (R : BitVec W) : (s.writeOut R).blkLen = s.blkLen := rfl
@[simp] theorem State.writeOut_rkCount {W : Nat} (s : State) (R : BitVec W) : (s.writeOut R).rkCount = s.rkCount := rfl
@[simp] theorem State.writeOut_key {W : Nat} (s : State) (R : BitVec W) : (s.writeOut R).key = s.key := rfl
@[simp] theorem State.writeOut_blkIn {W : Nat} (s : State) (R : BitVec W) : (s.writeOut R).blkIn = s.blkIn := rfl
@[simp] theorem State.writeOut_blkOut {W : Nat} (s : State) (R : BitVec W) : (s.writeOut R).blkOut = outRegs (placeResult R) := rfl
@[simp] theorem State.writeOut_rkmem {W : Nat} (s : State) (R : BitVec W) : (s.writeOut R).rkmem = s.rkmem := rfl
@[simp] theorem State.writeOut_lat {W : Nat} (s : State) (R : BitVec W) : (s.writeOut R).lat = s.lat := rfl
@[simp] theorem State.writeOut_engine {W : Nat} (s : State) (R : BitVec W) : (s.writeOut R).engine = s.engine := rfl
@[simp] theorem State.writeOut_inputs {W : Nat} (s : State) (R : BitVec W) : (s.writeOut R).inputs = s.inputs := rfl
@[simp] theorem State.writeOut_replies {W : Nat} (s : State) (R : BitVec W) : (s.writeOut R).replies = s.replies := rfl
@[simp] theorem State.writeOut_draws {W : Nat} (s : State) (R : BitVec W) : (s.writeOut R).draws = s.draws := rfl

/-! `State.writeRoundKeys` (R32) -/

@[simp] theorem State.writeRoundKeys_cmd (s : State) (ws : List Word) : (s.writeRoundKeys ws).cmd = s.cmd := rfl
@[simp] theorem State.writeRoundKeys_busy (s : State) (ws : List Word) : (s.writeRoundKeys ws).busy = s.busy := rfl
@[simp] theorem State.writeRoundKeys_done (s : State) (ws : List Word) : (s.writeRoundKeys ws).done = s.done := rfl
@[simp] theorem State.writeRoundKeys_err (s : State) (ws : List Word) : (s.writeRoundKeys ws).err = s.err := rfl
@[simp] theorem State.writeRoundKeys_keyLen (s : State) (ws : List Word) : (s.writeRoundKeys ws).keyLen = s.keyLen := rfl
@[simp] theorem State.writeRoundKeys_blkLen (s : State) (ws : List Word) : (s.writeRoundKeys ws).blkLen = s.blkLen := rfl
@[simp] theorem State.writeRoundKeys_rkCount (s : State) (ws : List Word) : (s.writeRoundKeys ws).rkCount = BitVec.ofNat 16 ws.length := rfl
@[simp] theorem State.writeRoundKeys_key (s : State) (ws : List Word) : (s.writeRoundKeys ws).key = s.key := rfl
@[simp] theorem State.writeRoundKeys_blkIn (s : State) (ws : List Word) : (s.writeRoundKeys ws).blkIn = s.blkIn := rfl
@[simp] theorem State.writeRoundKeys_blkOut (s : State) (ws : List Word) : (s.writeRoundKeys ws).blkOut = s.blkOut := rfl
@[simp] theorem State.writeRoundKeys_rkmem (s : State) (ws : List Word) : (s.writeRoundKeys ws).rkmem = Memory.writeFront s.rkmem ws := rfl
@[simp] theorem State.writeRoundKeys_lat (s : State) (ws : List Word) : (s.writeRoundKeys ws).lat = s.lat := rfl
@[simp] theorem State.writeRoundKeys_engine (s : State) (ws : List Word) : (s.writeRoundKeys ws).engine = s.engine := rfl
@[simp] theorem State.writeRoundKeys_inputs (s : State) (ws : List Word) : (s.writeRoundKeys ws).inputs = s.inputs := rfl
@[simp] theorem State.writeRoundKeys_replies (s : State) (ws : List Word) : (s.writeRoundKeys ws).replies = s.replies := rfl
@[simp] theorem State.writeRoundKeys_draws (s : State) (ws : List Word) : (s.writeRoundKeys ws).draws = s.draws := rfl

/-! `State.resetCore` (R321) -/

@[simp] theorem State.resetCore_cmd (s : State) : s.resetCore.cmd = State.reset.cmd := rfl
@[simp] theorem State.resetCore_busy (s : State) : s.resetCore.busy = State.reset.busy := rfl
@[simp] theorem State.resetCore_done (s : State) : s.resetCore.done = State.reset.done := rfl
@[simp] theorem State.resetCore_err (s : State) : s.resetCore.err = State.reset.err := rfl
@[simp] theorem State.resetCore_keyLen (s : State) : s.resetCore.keyLen = State.reset.keyLen := rfl
@[simp] theorem State.resetCore_blkLen (s : State) : s.resetCore.blkLen = State.reset.blkLen := rfl
@[simp] theorem State.resetCore_rkCount (s : State) : s.resetCore.rkCount = State.reset.rkCount := rfl
@[simp] theorem State.resetCore_key (s : State) : s.resetCore.key = State.reset.key := rfl
@[simp] theorem State.resetCore_blkIn (s : State) : s.resetCore.blkIn = State.reset.blkIn := rfl
@[simp] theorem State.resetCore_blkOut (s : State) : s.resetCore.blkOut = State.reset.blkOut := rfl
@[simp] theorem State.resetCore_rkmem (s : State) : s.resetCore.rkmem = State.reset.rkmem := rfl
@[simp] theorem State.resetCore_lat (s : State) : s.resetCore.lat = State.reset.lat := rfl
@[simp] theorem State.resetCore_engine (s : State) : s.resetCore.engine = State.reset.engine := rfl
@[simp] theorem State.resetCore_inputs (s : State) : s.resetCore.inputs = s.inputs := rfl
@[simp] theorem State.resetCore_replies (s : State) : s.resetCore.replies = s.replies := rfl
@[simp] theorem State.resetCore_draws (s : State) : s.resetCore.draws = s.draws := rfl

/-! `State.startCommand` (R270) -/

@[simp] theorem State.startCommand_cmd (s : State) (v : Word) : (s.startCommand v).cmd = v := rfl
@[simp] theorem State.startCommand_busy (s : State) (v : Word) : (s.startCommand v).busy = true := rfl
@[simp] theorem State.startCommand_done (s : State) (v : Word) : (s.startCommand v).done = false := rfl
@[simp] theorem State.startCommand_err (s : State) (v : Word) : (s.startCommand v).err = 0 := rfl
@[simp] theorem State.startCommand_keyLen (s : State) (v : Word) : (s.startCommand v).keyLen = s.keyLen := rfl
@[simp] theorem State.startCommand_blkLen (s : State) (v : Word) : (s.startCommand v).blkLen = s.blkLen := rfl
@[simp] theorem State.startCommand_rkCount (s : State) (v : Word) : (s.startCommand v).rkCount = s.rkCount := rfl
@[simp] theorem State.startCommand_key (s : State) (v : Word) : (s.startCommand v).key = s.key := rfl
@[simp] theorem State.startCommand_blkIn (s : State) (v : Word) : (s.startCommand v).blkIn = s.blkIn := rfl
@[simp] theorem State.startCommand_blkOut (s : State) (v : Word) : (s.startCommand v).blkOut = s.blkOut := rfl
@[simp] theorem State.startCommand_rkmem (s : State) (v : Word) : (s.startCommand v).rkmem = s.rkmem := rfl
@[simp] theorem State.startCommand_lat (s : State) (v : Word) : (s.startCommand v).lat = s.snapshot v := rfl
@[simp] theorem State.startCommand_engine (s : State) (v : Word) : (s.startCommand v).engine = s.engine := rfl
@[simp] theorem State.startCommand_inputs (s : State) (v : Word) : (s.startCommand v).inputs = .complete :: s.inputs := rfl
@[simp] theorem State.startCommand_replies (s : State) (v : Word) : (s.startCommand v).replies = s.replies := rfl
@[simp] theorem State.startCommand_draws (s : State) (v : Word) : (s.startCommand v).draws = s.draws + 12 := rfl

/-! `State.reply` (R36) -/

@[simp] theorem State.reply_cmd (s : State) (v : Option Word) : (s.reply v).cmd = s.cmd := by cases v <;> rfl
@[simp] theorem State.reply_busy (s : State) (v : Option Word) : (s.reply v).busy = s.busy := by cases v <;> rfl
@[simp] theorem State.reply_done (s : State) (v : Option Word) : (s.reply v).done = s.done := by cases v <;> rfl
@[simp] theorem State.reply_err (s : State) (v : Option Word) : (s.reply v).err = s.err := by cases v <;> rfl
@[simp] theorem State.reply_keyLen (s : State) (v : Option Word) : (s.reply v).keyLen = s.keyLen := by cases v <;> rfl
@[simp] theorem State.reply_blkLen (s : State) (v : Option Word) : (s.reply v).blkLen = s.blkLen := by cases v <;> rfl
@[simp] theorem State.reply_rkCount (s : State) (v : Option Word) : (s.reply v).rkCount = s.rkCount := by cases v <;> rfl
@[simp] theorem State.reply_key (s : State) (v : Option Word) : (s.reply v).key = s.key := by cases v <;> rfl
@[simp] theorem State.reply_blkIn (s : State) (v : Option Word) : (s.reply v).blkIn = s.blkIn := by cases v <;> rfl
@[simp] theorem State.reply_blkOut (s : State) (v : Option Word) : (s.reply v).blkOut = s.blkOut := by cases v <;> rfl
@[simp] theorem State.reply_rkmem (s : State) (v : Option Word) : (s.reply v).rkmem = s.rkmem := by cases v <;> rfl
@[simp] theorem State.reply_lat (s : State) (v : Option Word) : (s.reply v).lat = s.lat := by cases v <;> rfl
@[simp] theorem State.reply_engine (s : State) (v : Option Word) : (s.reply v).engine = s.engine := by cases v <;> rfl
@[simp] theorem State.reply_inputs (s : State) (v : Option Word) : (s.reply v).inputs = s.inputs := by cases v <;> rfl
@[simp] theorem State.reply_some_replies (s : State) (v : Word) : (s.reply (some v)).replies = v :: s.replies := rfl
@[simp] theorem State.reply_none_replies (s : State) :
    (s.reply none).replies = Config.draw s.draws :: s.replies := rfl
@[simp] theorem State.reply_some_draws (s : State) (v : Word) : (s.reply (some v)).draws = s.draws := rfl
@[simp] theorem State.reply_none_draws (s : State) : (s.reply none).draws = s.draws + 1 := rfl

/-! `State.snapshot` (R33) -/

@[simp] theorem State.snapshot_cmd (s : State) (v : Word) : (s.snapshot v).cmd = v := rfl
@[simp] theorem State.snapshot_klen (s : State) (v : Word) : (s.snapshot v).klen = s.keyLen := rfl
@[simp] theorem State.snapshot_blen (s : State) (v : Word) : (s.snapshot v).blen = s.blkLen := rfl

/-! `DataWord` (R36) -/

@[simp] theorem DataWord.known_of (v : Word) : (DataWord.of v).known = some v := rfl
@[simp] theorem DataWord.sample_of (v : Word) (n : Nat) : (DataWord.of v).sample n = v := rfl
@[simp] theorem DataWord.known_unwritten : DataWord.unwritten.known = none := rfl

theorem DataWord.sample_of_known {r : DataWord} {v : Word} (h : r.known = some v) (n : Nat) : r.sample n = v := by
  unfold DataWord.known at h
  unfold DataWord.sample
  split at h <;> simp_all

end Sys2Proof.Machine
end

