-- ==== Sys2Proof/Laws/Bus.lean ====
section
/-! SUPPORT. Everything a bus access can do, and the register map both ways. -/

namespace Sys2Proof.Machine

theorem regAt_key (j : Fin 8) : regAt (0x020 + 4 * j.val) = .key j := by
  have := j.isLt
  rw [regAt, if_neg (by omega), if_neg (by omega), if_neg (by omega), if_neg (by omega), if_neg (by omega), dif_pos (by omega)]
  exact congrArg Reg.key (Fin.ext (by simp))

theorem regAt_blkIn (j : Fin 4) : regAt (0x040 + 4 * j.val) = .blkIn j := by
  have := j.isLt
  rw [regAt, if_neg (by omega), if_neg (by omega), if_neg (by omega), if_neg (by omega), if_neg (by omega), dif_neg (by omega), dif_pos (by omega)]
  exact congrArg Reg.blkIn (Fin.ext (by simp))

theorem regAt_blkOut (j : Fin 4) : regAt (0x050 + 4 * j.val) = .blkOut j := by
  have := j.isLt
  rw [regAt, if_neg (by omega), if_neg (by omega), if_neg (by omega), if_neg (by omega), if_neg (by omega), dif_neg (by omega), dif_neg (by omega), dif_pos (by omega)]
  exact congrArg Reg.blkOut (Fin.ext (by simp))

theorem regAt_rkmem (i : Fin 256) : regAt (0x400 + 4 * i.val) = .rkmem i := by
  have := i.isLt
  rw [regAt, if_neg (by omega), if_neg (by omega), if_neg (by omega), if_neg (by omega), if_neg (by omega), dif_neg (by omega), dif_neg (by omega), dif_neg (by omega), dif_pos (by omega)]
  exact congrArg Reg.rkmem (Fin.ext (by simp))

/-- R20, R91: the offset of a register leads back to it. -/
theorem regAt_offset (r : Reg) : regAt r.offset = r := by
  cases r with
  | key j => exact regAt_key j
  | blkIn j => exact regAt_blkIn j
  | blkOut j => exact regAt_blkOut j
  | rkmem i => exact regAt_rkmem i
  | _ => rfl

theorem accessWf_of {off : Nat} (h : off < 0x1000) (h4 : off % 4 = 0) : accessWf .bits32 off = true := by
  simp [accessWf, Config.windowBytes, h, h4]

/-- Every register's offset is a defined access (R61). -/
theorem accessWf_offset (r : Reg) : accessWf .bits32 r.offset = true := by
  apply accessWf_of <;> cases r <;> simp only [Reg.offset] <;> omega

theorem lt_of_accessWf {size : AccessSize} {off : Nat} (h : accessWf size off = true) : off < Config.windowBytes := by
  simp only [accessWf, Bool.and_eq_true, decide_eq_true_eq] at h
  exact h.1

/-- A defined read replies and completes (R61, R296). -/
theorem busRead_wf {s : State} {size : AccessSize} {off : Nat} (h : accessWf size off = true) :
    s.busRead size off = .next (s.reply (s.readReg (regAt off))) := by
  have := lt_of_accessWf h
  simp [State.busRead, h, Nat.not_le.mpr this]

/-- A defined write completes (R61, R296). -/
theorem busWrite_wf {s : State} {size : AccessSize} {off : Nat} (v : Word) (h : accessWf size off = true) :
    s.busWrite size off v = .next (s.writeReg (regAt off) v) := by
  have := lt_of_accessWf h
  simp [State.busWrite, h, Nat.not_le.mpr this]

/-- A read that answers a next state only added a reply. -/
theorem busRead_cases {s t : State} {size : AccessSize} {off : Nat} (h : s.busRead size off = .next t) :
    accessWf size off = true ∧ t = s.reply (s.readReg (regAt off)) := by
  unfold State.busRead at h
  split at h
  · cases h
  · split at h
    · exact ⟨‹_›, by simpa using h.symm⟩
    · cases h

/-- A write that answers a next state wrote one register. -/
theorem busWrite_cases {s t : State} {size : AccessSize} {off : Nat} {v : Word} (h : s.busWrite size off v = .next t) :
    accessWf size off = true ∧ t = s.writeReg (regAt off) v := by
  unfold State.busWrite at h
  split at h
  · cases h
  · split at h
    · exact ⟨‹_›, by simpa using h.symm⟩
    · cases h

/-- What a register write can do: start a command, or store an input register, or nothing. -/
theorem writeReg_cases (s : State) (r : Reg) (v : Word) :
    (r = .cmd ∧ s.busy = false ∧ s.writeReg r v = s.accept v) ∨
    (∃ kl bl k b, s.writeReg r v = { s with keyLen := kl, blkLen := bl, key := k, blkIn := b }) := by
  rcases r with _ | _ | _ | _ | _ | j | j | j | i | _
  case cmd =>
    by_cases hb : s.busy = true
    · exact .inr ⟨s.keyLen, s.blkLen, s.key, s.blkIn, if_pos hb⟩
    · exact .inl ⟨rfl, by simpa using hb, if_neg hb⟩
  case keyLen => exact .inr ⟨v.setWidth 16, s.blkLen, s.key, s.blkIn, rfl⟩
  case blkLen => exact .inr ⟨s.keyLen, v.setWidth 16, s.key, s.blkIn, rfl⟩
  case key => exact .inr ⟨s.keyLen, s.blkLen, s.key.set j.val (.of v), s.blkIn, rfl⟩
  case blkIn => exact .inr ⟨s.keyLen, s.blkLen, s.key, s.blkIn.set j.val (.of v), rfl⟩
  all_goals exact .inr ⟨s.keyLen, s.blkLen, s.key, s.blkIn, rfl⟩

end Sys2Proof.Machine
end

