-- ==== Sys2Proof/Laws/Lengths.lean ====
section
/-! SUPPORT. How many round keys each key schedule gives (R2, R148, R184, R213, R246), whatever the key. -/

namespace Sys2Proof.Machine

theorem length_words64 (vs : List (BitVec 64)) : (words64 vs).length = 2 * vs.length := by
  induction vs with
  | nil => rfl
  | cons v vs ih => simp only [words64, List.flatMap_cons, List.length_append, List.length_cons, List.length_nil] at *; omega

theorem length_words128 (vs : List (BitVec 128)) : (words128 vs).length = 4 * vs.length := by
  induction vs with
  | nil => rfl
  | cons v vs ih => simp only [words128, List.flatMap_cons, List.length_append, List.length_cons, List.length_nil] at *; omega

theorem length_aesExpand (n i : Nat) (w : Quad Word) : (aesExpand n i w).length = n := by
  induction n generalizing i w with
  | zero => rfl
  | succ n ih => simp [aesExpand, ih]

theorem length_aesKeySchedule (R : Nat) (k : BitVec 128) : (aesKeySchedule R k).length = R + 1 := by
  simp [aesKeySchedule, length_aesExpand]

theorem length_presentKeysFrom (n i : Nat) (reg : BitVec 80) : (presentKeysFrom n i reg).length = n := by
  induction n generalizing i reg with
  | zero => rfl
  | succ n ih => simp [presentKeysFrom, ih]

theorem length_presentKeySchedule (K : BitVec 80) : (presentKeySchedule K).length = 32 :=
  length_presentKeysFrom 32 1 K

theorem length_leaScheduleFrom (u : Nat → List Word → List Word) (e : Nat → List Word → LeaRoundKey) (n i : Nat)
    (T : List Word) : (leaScheduleFrom u e n i T).length = n := by
  induction n generalizing i T with
  | zero => rfl
  | succ n ih => simp [leaScheduleFrom, ih]

theorem length_leaWords (ks : List LeaRoundKey) : (ks.flatMap LeaRoundKey.words).length = 6 * ks.length := by
  induction ks with
  | nil => rfl
  | cons k ks ih => simp only [List.flatMap_cons, List.length_append, ih, LeaRoundKey.words, List.length_cons, List.length_nil]; omega

theorem length_leaKeySchedule_128 (K : BitVec 128) : (leaKeySchedule 128 K).length = 24 :=
  length_leaScheduleFrom _ _ _ _ _

theorem length_leaKeySchedule_192 (K : BitVec 192) : (leaKeySchedule 192 K).length = 28 :=
  length_leaScheduleFrom _ _ _ _ _

theorem length_leaKeySchedule_256 (K : BitVec 256) : (leaKeySchedule 256 K).length = 32 :=
  length_leaScheduleFrom _ _ _ _ _

theorem length_leaKeySchedule_le (L : Nat) (K : BitVec L) : (leaKeySchedule L K).length ≤ 32 := by
  unfold leaKeySchedule
  split <;> simp [length_leaScheduleFrom]

theorem length_piccolo128RoundKeys (n i : Nat) (k : List HalfWord) : (piccolo128RoundKeys n i k).length = n := by
  induction n generalizing i k with
  | zero => rfl
  | succ n ih => simp [piccolo128RoundKeys, ih]

theorem length_piccoloKeySchedule_80 (K : BitVec 80) : (piccoloKeySchedule 80 K).rk.length = 25 := by
  simp [piccoloKeySchedule, piccolo80KeySchedule]

theorem length_piccoloKeySchedule_128 (K : BitVec 128) : (piccoloKeySchedule 128 K).rk.length = 31 :=
  length_piccolo128RoundKeys _ _ _

theorem length_piccoloKeySchedule_le (L : Nat) (K : BitVec L) : (piccoloKeySchedule L K).rk.length ≤ 31 := by
  unfold piccoloKeySchedule
  split <;> simp [piccolo80KeySchedule, piccolo128KeySchedule, length_piccolo128RoundKeys]

theorem length_piccoloKeyMemory (ks : PiccoloKeys) : (piccoloKeyMemory ks).length = ks.rk.length + 2 := by
  simp [piccoloKeyMemory]

end Sys2Proof.Machine
end

