-- ==== Sys2Proof/Laws/Memory.lean ====
section
/-! SUPPORT. RKMEM: what a read gives after a write, and that every operation keeps the canonical form. -/

namespace Sys2Proof.Machine

theorem Memory.wf_nil : Memory.wf ([] : Memory) := by
  simp [Memory.wf]

theorem Memory.mem_cellsFrom {c : Nat × Word} {ws : List Word} {i : Nat} (h : c ∈ Memory.cellsFrom i ws) :
    i ≤ c.1 ∧ c.1 < i + ws.length := by
  induction ws generalizing i with
  | nil => simp [Memory.cellsFrom] at h
  | cons w ws ih =>
    simp only [Memory.cellsFrom, List.mem_cons] at h
    rcases h with rfl | h
    · simp
    · have := ih h
      simp only [List.length_cons]
      omega

theorem Memory.pairwise_cellsFrom (ws : List Word) (i : Nat) :
    (Memory.cellsFrom i ws).Pairwise (fun a b => a.1 < b.1) := by
  induction ws generalizing i with
  | nil => simp [Memory.cellsFrom]
  | cons w ws ih =>
    refine List.Pairwise.cons (fun c hc => ?_) (ih (i + 1))
    exact (Memory.mem_cellsFrom hc).1

/-- Writing the front of RKMEM keeps its canonical form. -/
theorem Memory.wf_writeFront {m : Memory} (h : Memory.wf m) (ws : List Word) : Memory.wf (Memory.writeFront m ws) := by
  obtain ⟨hp, hb⟩ := h
  refine ⟨List.pairwise_append.mpr ⟨Memory.pairwise_cellsFrom _ _, hp.sublist List.filter_sublist, ?_⟩, ?_⟩
  · intro a ha b hb'
    have h1 := Memory.mem_cellsFrom ha
    have h2 := of_decide_eq_true (List.mem_filter.mp hb').2
    have h3 := List.length_take_le Config.rkmemWords ws
    have h4 : (ws.take Config.rkmemWords).length ≤ ws.length := by simp
    omega
  · intro c hc
    rcases List.mem_append.mp hc with hc | hc
    · have h1 := Memory.mem_cellsFrom hc
      have h2 := List.length_take_le Config.rkmemWords ws
      omega
    · exact hb c (List.mem_filter.mp hc).1

theorem Memory.get_nil (i : Nat) : Memory.get [] i = none := rfl

theorem Memory.get_cellsFrom (ws : List Word) (b i : Nat) :
    Memory.get (Memory.cellsFrom b ws) i = if b ≤ i then ws[i - b]? else none := by
  induction ws generalizing b with
  | nil => simp [Memory.cellsFrom, Memory.get]
  | cons w ws ih =>
    have ih' := ih (b + 1)
    simp only [Memory.get] at ih'
    simp only [Memory.cellsFrom, Memory.get, List.find?_cons]
    by_cases hbi : b = i
    · subst hbi; simp
    · have : (b == i) = false := by simpa using hbi
      simp only [this, ih']
      by_cases hle : b ≤ i
      · have e : i - b = (i - (b + 1)) + 1 := by omega
        have hle' : b + 1 ≤ i := by omega
        simp [hle, hle', e]
      · have hle' : ¬ b + 1 ≤ i := by omega
        simp [hle, hle']

theorem Memory.get_append (m m' : Memory) (i : Nat) : Memory.get (m ++ m') i = (Memory.get m i).or (Memory.get m' i) := by
  simp only [Memory.get, List.find?_append]
  cases List.find? (fun c => c.1 == i) m <;> simp

theorem Memory.get_filter_ge (m : Memory) (n i : Nat) :
    Memory.get (m.filter fun c => n ≤ c.1) i = if n ≤ i then Memory.get m i else none := by
  simp only [Memory.get, List.find?_filter]
  by_cases hi : n ≤ i
  · have : (fun c : Nat × Word => decide (decide (n ≤ c.1) = true ∧ (c.1 == i) = true)) = fun c => c.1 == i := by
      funext c
      by_cases hc : c.1 = i <;> simp [hc, hi]
    rw [this, if_pos hi]
  · have : (fun c : Nat × Word => decide (decide (n ≤ c.1) = true ∧ (c.1 == i) = true)) = fun _ => false := by
      funext c
      by_cases hc : c.1 = i <;> simp [hc, hi]
    rw [this, if_neg hi]
    simp

/-- R32: a word below the count reads back as written. -/
theorem Memory.get_writeFront_lt (m : Memory) {ws : List Word} (hlen : ws.length ≤ Config.rkmemWords) {i : Nat}
    (hi : i < ws.length) : Memory.get (Memory.writeFront m ws) i = ws[i]? := by
  rw [Memory.writeFront, Memory.get_append, Memory.get_cellsFrom, List.take_of_length_le hlen]
  simp [hi]

/-- R32: a word at or beyond the count is unchanged. -/
theorem Memory.get_writeFront_ge (m : Memory) {ws : List Word} {i : Nat} (hi : ws.length ≤ i) :
    Memory.get (Memory.writeFront m ws) i = Memory.get m i := by
  rw [Memory.writeFront, Memory.get_append, Memory.get_cellsFrom, Memory.get_filter_ge]
  have : (ws.take Config.rkmemWords)[i]? = none := by
    rw [List.getElem?_eq_none]
    have : (ws.take Config.rkmemWords).length ≤ ws.length := by simp
    omega
  simp only [Nat.zero_le, if_true, Nat.sub_zero, this, Option.none_or, if_pos hi]

end Sys2Proof.Machine
end

