-- ==== Sys2Proof/Laws/Exec.lean ====
section
/-! SUPPORT. Everything a command's completion can do, said once: it reports a length error and changes nothing else, or it
writes OUTREG and reports success, or it writes round keys and reports success. -/

namespace Sys2Proof.Machine

/-- The result of an ENC, DEC or FRB command as the width and value written to OUTREG; none for a KS command. -/
def resultOf (i : Instr) (lat : Latch) : Option ((W : Nat) × BitVec W) :=
  match i with
  | .aesEnc => some ⟨128, aesEncrypt Config.aesRounds (blkOperand 128 lat) (keyOperand 128 lat)⟩
  | .aesDec => some ⟨128, aesDecrypt Config.aesRounds (blkOperand 128 lat) (keyOperand 128 lat)⟩
  | .aesKs => none
  | .aesFrb => some ⟨8, aesFirstRoundByte (blkOperand 8 lat) (keyOperand 8 lat)⟩
  | .presentEnc => some ⟨64, presentEncrypt (blkOperand 64 lat) (keyOperand 80 lat)⟩
  | .presentDec => some ⟨64, presentDecrypt (blkOperand 64 lat) (keyOperand 80 lat)⟩
  | .presentKs => none
  | .leaEnc => some ⟨128, leaEncrypt lat.klen.toNat (blkOperand 128 lat) (keyOperand lat.klen.toNat lat)⟩
  | .leaDec => some ⟨128, leaDecrypt lat.klen.toNat (blkOperand 128 lat) (keyOperand lat.klen.toNat lat)⟩
  | .leaKs => none
  | .piccoloEnc => some ⟨64, piccoloEncrypt lat.klen.toNat (blkOperand 64 lat) (keyOperand lat.klen.toNat lat)⟩
  | .piccoloDec => some ⟨64, piccoloDecrypt lat.klen.toNat (blkOperand 64 lat) (keyOperand lat.klen.toNat lat)⟩
  | .piccoloKs => none

/-- The RKMEM words a KS command writes. -/
def roundKeyWordsOf (i : Instr) (lat : Latch) : List Word :=
  match i with
  | .aesKs => words128 (aesKeySchedule Config.aesRounds (keyOperand 128 lat))
  | .presentKs => words64 (presentKeySchedule (keyOperand 80 lat))
  | .leaKs => (leaKeySchedule lat.klen.toNat (keyOperand lat.klen.toNat lat)).flatMap LeaRoundKey.words
  | .piccoloKs => piccoloKeyMemory (piccoloKeySchedule lat.klen.toNat (keyOperand lat.klen.toNat lat))
  | .aesEnc | .aesDec | .aesFrb | .presentEnc | .presentDec | .leaEnc | .leaDec | .piccoloEnc | .piccoloDec => []

/-- What a successful command writes beside STATUS. -/
def executeOf (i : Instr) (s : State) : State :=
  match resultOf i s.lat with
  | some ⟨_, R⟩ => s.writeOut R
  | none => s.writeRoundKeys (roundKeyWordsOf i s.lat)

/-- Every command is the shared completion of R273 around what it writes. -/
theorem exec_eq (i : Instr) (s : State) : exec i s = .next (s.completeCommand i (executeOf i)) := by
  cases i <;> rfl

theorem completeCommand_ok {s : State} {i : Instr} (h : validateLengths i s.lat = none) (f : State → State) :
    s.completeCommand i f = (f s).succeed := by
  simp [State.completeCommand, h]

theorem completeCommand_error {s : State} {i : Instr} {e : ErrorKind} (h : validateLengths i s.lat = some e)
    (f : State → State) : s.completeCommand i f = s.raiseError e := by
  simp [State.completeCommand, h]

theorem length_roundKeyWordsOf_le (i : Instr) (lat : Latch) : (roundKeyWordsOf i lat).length ≤ 192 := by
  cases i <;> simp only [roundKeyWordsOf, length_words128, length_aesKeySchedule, Config.aesRounds, length_words64,
    length_presentKeySchedule, length_leaWords, length_piccoloKeyMemory, List.length_nil] <;> try omega
  · have := length_leaKeySchedule_le lat.klen.toNat (keyOperand lat.klen.toNat lat)
    omega
  · have := length_piccoloKeySchedule_le lat.klen.toNat (keyOperand lat.klen.toNat lat)
    omega

/-- What the completion of a command can do. -/
theorem exec_cases {i : Instr} {s t : State} (h : exec i s = .next t) :
    (∃ e, validateLengths i s.lat = some e ∧ t = s.raiseError e) ∨
    (∃ W R, validateLengths i s.lat = none ∧ resultOf i s.lat = some ⟨W, R⟩ ∧ t = (s.writeOut R).succeed) ∨
    (validateLengths i s.lat = none ∧ resultOf i s.lat = none ∧
      t = (s.writeRoundKeys (roundKeyWordsOf i s.lat)).succeed) := by
  rw [exec_eq] at h
  obtain rfl : s.completeCommand i (executeOf i) = t := by simpa using h
  cases hv : validateLengths i s.lat with
  | some e => exact .inl ⟨e, rfl, completeCommand_error hv _⟩
  | none =>
    rw [completeCommand_ok hv, executeOf]
    cases hr : resultOf i s.lat with
    | some p => exact .inr (.inl ⟨p.1, p.2, rfl, rfl, rfl⟩)
    | none => exact .inr (.inr ⟨rfl, rfl, rfl⟩)

/-- Validation after decoding reports one of the two length errors or nothing (R291). -/
theorem validateLengths_cases (i : Instr) (lat : Latch) :
    validateLengths i lat = none ∨ validateLengths i lat = some .invalidBlockWidth ∨
      validateLengths i lat = some .invalidKeyWidth := by
  unfold validateLengths
  split
  · exact .inr (.inl rfl)
  · split
    · exact .inr (.inr rfl)
    · exact .inl rfl

/-- A completion never changes what only the host writes, nor the pending events and the host's record. -/
theorem exec_inputs {i : Instr} {s t : State} (h : exec i s = .next t) : s.inputsKept t ∧ s.hostKept t := by
  rcases exec_cases h with ⟨e, -, rfl⟩ | ⟨W, R, -, -, rfl⟩ | ⟨-, -, rfl⟩ <;>
    simp [State.inputsKept, State.hostKept]

end Sys2Proof.Machine
end

