-- ==== Sys2Proof/Laws/Lea.lean ====
section
/-! SUPPORT. The LEA decryption round undoes the encryption round (R206). -/

namespace Sys2Proof.Machine

theorem leaInvRound_leaRound (X : Quad Word) (rk : LeaRoundKey) : leaInvRound (leaRound X rk) rk = X := by
  rcases X with ⟨x0, x1, x2, x3⟩
  simp only [leaInvRound, leaRound, ror_rol, rol_ror]
  have cancel : ∀ a b : Word, sub32 (add32 a b) a = b := fun a b => by simp [sub32, add32]
  simp only [cancel, xor_cancel_right]

end Sys2Proof.Machine
end

