-- ==== Sys2Proof/Laws/PerInstr.lean ====
section
/-! SUPPORT. One family of statements about every command as syntax: its word has the fields of R80 to R84, and it is the row
the table's numbering reads. -/

namespace Sys2Proof.Laws.CommandWordFields

/-- R80, R83: the word's fields are RSVD = 0 and the command's CIPH and OP, they are valid (R84), and the word, as a number of
32 bits, and its low 8 bits alone read as the command. -/
def Statement (i : Instr) : Prop :=
  fieldsOf (encode i) = { rsvd := 0, ciph := i.ciphField, op := i.opField } ∧
    (fieldsOf (encode i)).wf = true ∧ i.wf = true ∧
    decodeTableWord 32 (encode i).toNat = some i ∧ decodeTableWord 8 (encode i).toNat = some i

theorem aesEnc : Statement .aesEnc := by unfold Statement; decide
theorem aesDec : Statement .aesDec := by unfold Statement; decide
theorem aesKs : Statement .aesKs := by unfold Statement; decide
theorem aesFrb : Statement .aesFrb := by unfold Statement; decide
theorem presentEnc : Statement .presentEnc := by unfold Statement; decide
theorem presentDec : Statement .presentDec := by unfold Statement; decide
theorem presentKs : Statement .presentKs := by unfold Statement; decide
theorem leaEnc : Statement .leaEnc := by unfold Statement; decide
theorem leaDec : Statement .leaDec := by unfold Statement; decide
theorem leaKs : Statement .leaKs := by unfold Statement; decide
theorem piccoloEnc : Statement .piccoloEnc := by unfold Statement; decide
theorem piccoloDec : Statement .piccoloDec := by unfold Statement; decide
theorem piccoloKs : Statement .piccoloKs := by unfold Statement; decide

end Sys2Proof.Laws.CommandWordFields
end

