-- ==== Sys2Proof/Laws/Piccolo.lean ====
section
/-! SUPPORT. The facts behind R239: a Piccolo round undoes itself, and exchanging the two halves of the state commutes with the
round permutation and exchanges the two keys of a round. -/

namespace Sys2Proof.Machine

/-- The two halves of the state exchanged. -/
def piccoloSwap (X : Quad HalfWord) : Quad HalfWord := ⟨X.e2, X.e3, X.e0, X.e1⟩

theorem piccoloRound_self (X : Quad HalfWord) (rk : HalfWord × HalfWord) : piccoloRound (piccoloRound X rk) rk = X := by
  rcases X with ⟨a, b, c, d⟩
  have h : ∀ x f k : HalfWord, x ^^^ f ^^^ k ^^^ f ^^^ k = x := by
    intro x f k
    rw [BitVec.xor_assoc (x ^^^ f), BitVec.xor_comm k f, ← BitVec.xor_assoc, xor_cancel_right, xor_cancel_right]
  simp [piccoloRound, h]

theorem leftByte_append (a b : Byte) : leftByte (a ++ b) = a := by
  ext i hi
  simp only [leftByte, ← BitVec.getLsbD_eq_getElem, BitVec.getLsbD_extractLsb', BitVec.getLsbD_append, hi, decide_true,
    Bool.true_and]
  rw [if_neg (by omega)]
  congr 1; omega

theorem rightByte_append (a b : Byte) : rightByte (a ++ b) = b := by
  ext i hi
  simp only [rightByte, ← BitVec.getLsbD_eq_getElem, BitVec.getLsbD_extractLsb', BitVec.getLsbD_append, hi, decide_true,
    Bool.true_and]
  rw [if_pos (by omega)]
  congr 1; omega

theorem append_bytes (w : HalfWord) : leftByte w ++ rightByte w = w := by
  ext i hi
  simp only [leftByte, rightByte, ← BitVec.getLsbD_eq_getElem, BitVec.getLsbD_extractLsb', BitVec.getLsbD_append]
  split
  · rw [decide_eq_true (by omega), Bool.true_and]; congr 1; omega
  · rw [decide_eq_true (by omega), Bool.true_and]; congr 1; omega

/-- Exchanging the halves commutes with RP. -/
theorem piccoloSwap_RP (X : Quad HalfWord) : piccoloSwap (piccoloRP X) = piccoloRP (piccoloSwap X) := rfl

/-- RP after RP is the exchange of the halves: RP is its own inverse up to that exchange. -/
theorem piccoloRP_RP (X : Quad HalfWord) : piccoloRP (piccoloRP X) = piccoloSwap X := by
  rcases X with ⟨a, b, c, d⟩
  simp [piccoloRP, piccoloSwap, leftByte_append, rightByte_append, append_bytes]

/-- Exchanging the halves exchanges the two keys of a round. -/
theorem piccoloSwap_round (X : Quad HalfWord) (rk : HalfWord × HalfWord) :
    piccoloSwap (piccoloRound X rk) = piccoloRound (piccoloSwap X) (rk.2, rk.1) := rfl

theorem piccoloSwap_swap (X : Quad HalfWord) : piccoloSwap (piccoloSwap X) = X := rfl

end Sys2Proof.Machine
end

