-- ==== Sys2Proof/Laws/Present.lean ====
section
/-! SUPPORT. Each PRESENT layer is undone by its inverse (R173, R175, R177). -/

namespace Sys2Proof.Machine

/-- R171. -/
theorem presentInvSbox_presentSbox : ∀ x : Nibble, presentInvSbox (presentSbox x) = x := by decide +kernel

theorem nibbleLayer_nibbleLayer (t u : Nibble → Nibble) (h : ∀ x, u (t x) = x) (s : BitVec 64) :
    nibbleLayer u (nibbleLayer t s) = s := by
  have hw : ∀ v : HalfWord, join4 ((split4 4 (join4 ((split4 4 v).map t))).map u) = v := fun v => by
    rw [split4_join4, Quad.map_map, Quad.map_eq_self (f := u ∘ t) h, join4_split4]
  rw [nibbleLayer, nibbleLayer, split4_join16, Quad.map_map]
  exact (congrArg join16 (Quad.map_eq_self hw _)).trans (join16_split4 s)

theorem invSBoxLayer_sBoxLayer (s : BitVec 64) : invSBoxLayer (sBoxLayer s) = s :=
  nibbleLayer_nibbleLayer _ _ presentInvSbox_presentSbox s

theorem getLsbD_gatherBits (f : Nat → Bool) (n i : Nat) : (gatherBits f n).getLsbD i = (decide (i < n) && f i) := by
  induction n with
  | zero => simp [gatherBits]
  | succ n ih =>
    rw [gatherBits, BitVec.getLsbD_cons, ih]
    by_cases h : i = n
    · simp [h]
    · simp only [h, if_false]
      congr 1
      simp; omega

theorem presentP_lt : ∀ i < 64, presentP i < 64 := by decide
theorem presentPInv_lt : ∀ i < 64, presentPInv i < 64 := by decide
/-- R177: `P` and `PINV` are inverse. -/
theorem presentPInv_presentP : ∀ i < 64, presentPInv (presentP i) = i := by decide

theorem invPLayer_pLayer (s : BitVec 64) : invPLayer (pLayer s) = s := by
  apply BitVec.eq_of_getLsbD_eq
  intro i hi
  rw [invPLayer, pLayer, getLsbD_gatherBits, getLsbD_gatherBits, presentPInv_presentP i hi]
  simp [hi, presentP_lt i hi]

theorem presentAddRoundKey_self (s k : BitVec 64) : presentAddRoundKey (presentAddRoundKey s k) k = s :=
  xor_cancel_right s k

end Sys2Proof.Machine
end

