-- ==== Sys2Proof/Laws/Step.lean ====
section
/-! SUPPORT. Everything one step can do, said once. -/

namespace Sys2Proof.Machine

/-- The completion step always answers a next state (R295): by the command's meaning, or by InvalidCommand. -/
theorem completeStep_cases (s : State) :
    (∃ i, decode s.lat.cmd = .ok i ∧ completeStep s = exec i s) ∨
    (∃ e, decode s.lat.cmd = .error e ∧ completeStep s = .next (s.raiseError .invalidCommand)) := by
  unfold completeStep
  cases decode s.lat.cmd with
  | ok i => exact .inl ⟨i, rfl, rfl⟩
  | error e => exact .inr ⟨e, rfl, rfl⟩

theorem step_nil {s : State} (h : s.inputs = []) : step s = completeIfBusy s := by
  simp [step, nextEvent, h]

theorem step_cons {s : State} {e : Event} {es : List Event} (h : s.inputs = e :: es) :
    step s = perform e { s with inputs := es } := by
  simp [step, nextEvent, h]

/-- What a step that answers a next state did, to the state `s'` that differs from `s` in its pending events alone. -/
theorem step_cases {s t : State} (h : step s = .next t) :
    ∃ s', s' = { s with inputs := s.inputs.tail } ∧
      ((s.busy = true ∧ completeStep s' = .next t) ∨ t = s' ∨ (∃ v, t = s'.reply v) ∨
        (∃ r v, t = s'.writeReg r v) ∨ t = s'.resetCore) := by
  refine ⟨_, rfl, ?_⟩
  cases hin : s.inputs with
  | nil =>
    have hs : ({ s with inputs := [].tail } : State) = s := by
      cases s; simp_all
    rw [hs]
    rw [step_nil hin, completeIfBusy] at h
    split at h
    · exact .inl ⟨‹_›, h⟩
    · exact .inr (.inl (by simpa using h.symm))
  | cons e es =>
    rw [step_cons hin] at h
    simp only [List.tail_cons]
    cases e with
    | read size off => exact .inr (.inr (.inl ⟨_, (busRead_cases h).2⟩))
    | write size off v => exact .inr (.inr (.inr (.inl ⟨_, _, (busWrite_cases h).2⟩)))
    | complete =>
      simp only [perform, completeIfBusy] at h
      split at h
      · exact .inl ⟨‹_›, h⟩
      · exact .inr (.inl (by simpa using h.symm))
    | reset => exact .inr (.inr (.inr (.inr (by simpa [perform] using h.symm))))

end Sys2Proof.Machine
end

