-- ==== Sys2Proof/Laws/Script.lean ====
section
/-! SUPPORT. Bus-scripts: what a sequence of register writes does (R67, R91), and what the host reads from the final STATUS
(R279). -/

namespace Sys2Proof.Machine

/-- The final STATUS passes the host's check exactly when DONE = 1 and ERR = 0. -/
theorem callSucceeded_statusWord (s : State) : callSucceeded s.statusWord = (s.done && s.err == 0) := by
  rcases s with ⟨_, busy, done, err, _, _, _, _, _, _, _, _, _, _, _, _⟩
  simp only [State.statusWord]
  clear * -
  revert err busy done
  decide +kernel

/-- The pending events do not matter to a register write. -/
theorem writeReg_inputs (s : State) (r : Reg) (v : Word) (es : List Event) :
    ({ s with inputs := es } : State).writeReg r v = { s.writeReg r v with inputs := es } := by
  cases r <;> simp only [State.writeReg]
  split <;> rfl

/-- One script write: the register takes the value, and the event is done. -/
theorem step_scriptWrite {s : State} {r : Reg} {v : Word} {es : List Event} (h : s.inputs = scriptWrite r v :: es) :
    step s = .next { s.writeReg r v with inputs := es } := by
  rw [step_cons h, scriptWrite, perform, busWrite_wf v (accessWf_offset r), regAt_offset, writeReg_inputs]

/-- The registers a call's operands go to (R279). -/
def Reg.isOperand (r : Reg) : Bool :=
  match r with
  | .keyLen | .blkLen | .key _ | .blkIn _ => true
  | .cmd | .status | .rkCount | .blkOut _ | .rkmem _ | .reserved => false

/-- R325: writes to two different operand registers may change places. -/
theorem writeReg_comm {r r' : Reg} (hr : r.isOperand = true) (hr' : r'.isOperand = true) (h : r ≠ r') (s : State)
    (v v' : Word) : (s.writeReg r v).writeReg r' v' = (s.writeReg r' v').writeReg r v := by
  cases r <;> simp only [Reg.isOperand, Bool.false_eq_true] at hr <;> cases r' <;>
    simp only [Reg.isOperand, Bool.false_eq_true] at hr' <;> simp only [State.writeReg, ne_eq, not_true_eq_false] at h ⊢
  · rename_i j j'
    rw [Vector.set_comm _ _ (fun e => h (congrArg Reg.key (Fin.ext e)))]
  · rename_i j j'
    rw [Vector.set_comm _ _ (fun e => h (congrArg Reg.blkIn (Fin.ext e)))]

/-- A sequence of script writes, performed in order, reaches the state that the writes give one after another. -/
theorem run_scriptWrites (ws : List (Reg × Word)) (s : State) (es : List Event)
    (h : s.inputs = ws.map (fun w => scriptWrite w.1 w.2) ++ es) :
    Sys2Proof.core.run ws.length s = .next { ws.foldl (fun s w => s.writeReg w.1 w.2) s with inputs := es } := by
  induction ws generalizing s with
  | nil => simp only [List.map_nil, List.nil_append] at h; subst h; rfl
  | cons w ws ih =>
    have hs := step_scriptWrite (by simpa using h)
    have hc : Sys2Proof.core.run (ws.length + 1) s =
        Sys2Proof.core.run ws.length
          ({ s.writeReg w.1 w.2 with inputs := ws.map (fun w => scriptWrite w.1 w.2) ++ es } : State) := by
      simp only [Host.Core.run]
      rw [show Sys2Proof.core.step s = step s from rfl, hs]
    rw [List.length_cons, hc, ih _ rfl]
    have fold : ∀ (l : List (Reg × Word)) (u : State) (xs : List Event),
        ({ l.foldl (fun s w => s.writeReg w.1 w.2) { u with inputs := xs } with inputs := es } : State) =
          { l.foldl (fun s w => s.writeReg w.1 w.2) u with inputs := es } := by
      intro l
      induction l with
      | nil => intro u xs; rfl
      | cons w l ihl => intro u xs; rw [List.foldl_cons, writeReg_inputs, ihl, List.foldl_cons]
    rw [fold, List.foldl_cons]

end Sys2Proof.Machine
end

