-- ==== Sys2Proof/Tests/Slice0.lean ====
section
/-! SUPPORT. The model's own tests. Every expected value comes from 95_test_vectors.md (its number stands in the docstring) or
from the rule named. The last part holds, for every statement of Obligations.lean with hypotheses, a state and operands
that meet them. -/

namespace Sys2Proof.Tests
open Sys2Proof Sys2Proof.Machine

-- One theorem at a time: each kernel evaluation would otherwise hold a thread of its own.
set_option Elab.async false

/-! ## Helpers -/

/-- A state in which the command word `c` is in progress with this snapshot, and its completion step comes next. -/
def inProgress (c : Word) (klen blen : BitVec 16) (key : Vector Word 8) (blk : Vector Word 4) : State :=
  { State.reset with
    cmd := c, busy := true, inputs := [.complete]
    lat := { cmd := c, key := key, blk := blk, klen := klen, blen := blen } }

/-- STATUS and BLK_OUT after one step. -/
def stepOut (s : State) : Option (Word × List (Option Word)) :=
  match step s with
  | .next t => some (t.statusWord, (List.finRange 4).map fun j => t.readReg (.blkOut j))
  | _ => none

/-- STATUS, RK_COUNT and the named words of RKMEM after one step. -/
def stepKeys (s : State) (is : List (Fin 256)) : Option (Word × Nat × List (Option Word)) :=
  match step s with
  | .next t => some (t.statusWord, t.rkCount.toNat, is.map fun i => t.readReg (.rkmem i))
  | _ => none

/-- STATUS after one step. -/
def stepStatus (s : State) : Option Word :=
  match step s with
  | .next t => some t.statusWord
  | _ => none

/-- What one step did to a register. -/
def stepReg (s : State) (r : Reg) : Option (Option Word) :=
  match step s with
  | .next t => some (t.readReg r)
  | _ => none

/-- After reset, with one pending event. -/
def afterReset (e : Event) : State := { State.reset with inputs := [e] }

def aesKey : Vector Word 8 := #v[0x2b7e1516, 0x28aed2a6, 0xabf71588, 0x09cf4f3c, 0, 0, 0, 0]
def leaKey : Vector Word 8 :=
  #v[0x0f1e2d3c, 0x4b5a6978, 0x8796a5b4, 0xc3d2e1f0, 0xf0e1d2c3, 0xb4a59687, 0x78695a4b, 0x3c2d1e0f]
def piccoloKey : Vector Word 8 := #v[0x00112233, 0x44556677, 0x8899aabb, 0xccddeeff, 0, 0, 0, 0]
def zeroKey : Vector Word 8 := #v[0, 0, 0, 0, 0, 0, 0, 0]
def zeroBlk : Vector Word 4 := #v[0, 0, 0, 0]

/-! ## Well-formedness refuses ill-formed terms -/

/-- R84: a set reserved bit is refused. -/
theorem test_wf_reserved_bits : ({ rsvd := 1, ciph := 1, op := 1 } : CmdFields).wf = false := by decide
/-- R84: OP = 0 is refused. -/
theorem test_wf_op_zero : ({ rsvd := 0, ciph := 1, op := 0 } : CmdFields).wf = false := by decide
/-- R84: OP = 5 is refused. -/
theorem test_wf_op_five : ({ rsvd := 0, ciph := 1, op := 5 } : CmdFields).wf = false := by decide
/-- R84: CIPH = 0 is refused. -/
theorem test_wf_ciph_zero : ({ rsvd := 0, ciph := 0, op := 1 } : CmdFields).wf = false := by decide
/-- R84: CIPH = 5 is refused. -/
theorem test_wf_ciph_five : ({ rsvd := 0, ciph := 5, op := 1 } : CmdFields).wf = false := by decide
/-- R84: FRB of another cipher is refused, FRB of AES is not. -/
theorem test_wf_frb : ({ rsvd := 0, ciph := 2, op := 4 } : CmdFields).wf = false ∧
    ({ rsvd := 0, ciph := 1, op := 4 } : CmdFields).wf = true := by decide
/-- R61: the other widths are refused. -/
theorem test_wf_widths : Event.wf (.read .bits8 0) = false ∧ Event.wf (.read .bits16 0) = false ∧
    Event.wf (.write .bits64 0x020 0) = false ∧ Event.wf (.read .bits32 0x004) = true := by decide
/-- R61: a misaligned access is refused. -/
theorem test_wf_alignment : Event.wf (.read .bits32 0x006) = false ∧ Event.wf (.write .bits32 0x001 0) = false := by decide
/-- R60: the window ends at 0xFFF. -/
theorem test_wf_window : Event.wf (.read .bits32 0xFFC) = true ∧ Event.wf (.read .bits32 0x1000) = false := by decide
/-- Every command is well-formed, and `Instr.all` has all thirteen rows of R83. -/
theorem test_wf_all : Instr.all.all Instr.wf = true ∧ Instr.all.length = 13 := by decide

/-! ## Decoding: the words of spec/opcode_table.json, written out bit by bit -/

theorem test_decode_aesEnc : decode 0b00000000000000000000000000010001#32 = .ok .aesEnc := by decide
theorem test_decode_aesDec : decode 0b00000000000000000000000000010010#32 = .ok .aesDec := by decide
theorem test_decode_aesKs : decode 0b00000000000000000000000000010011#32 = .ok .aesKs := by decide
theorem test_decode_aesFrb : decode 0b00000000000000000000000000010100#32 = .ok .aesFrb := by decide
theorem test_decode_presentEnc : decode 0b00000000000000000000000000100001#32 = .ok .presentEnc := by decide
theorem test_decode_presentDec : decode 0b00000000000000000000000000100010#32 = .ok .presentDec := by decide
theorem test_decode_presentKs : decode 0b00000000000000000000000000100011#32 = .ok .presentKs := by decide
theorem test_decode_leaEnc : decode 0b00000000000000000000000000110001#32 = .ok .leaEnc := by decide
theorem test_decode_leaDec : decode 0b00000000000000000000000000110010#32 = .ok .leaDec := by decide
theorem test_decode_leaKs : decode 0b00000000000000000000000000110011#32 = .ok .leaKs := by decide
theorem test_decode_piccoloEnc : decode 0b00000000000000000000000001000001#32 = .ok .piccoloEnc := by decide
theorem test_decode_piccoloDec : decode 0b00000000000000000000000001000010#32 = .ok .piccoloDec := by decide
theorem test_decode_piccoloKs : decode 0b00000000000000000000000001000011#32 = .ok .piccoloKs := by decide

/-- V70, R90: illegal words, rejected by name. -/
theorem test_decode_illegal :
    decode 0x00000000#32 = .error .reservedOp ∧ decode 0x00000015#32 = .error .reservedOp ∧
    decode 0x00000024#32 = .error .frbNotAes ∧ decode 0x00000051#32 = .error .reservedCipher ∧
    decode 0x00000001#32 = .error .reservedCipher ∧ decode 0x00000111#32 = .error .reservedBits ∧
    decode 0x80000011#32 = .error .reservedBits := by decide

/-- The word of the command map stored by `withFetchWord` is the next to run: with no lengths it fails (R323, V72). -/
theorem test_fetch_word : stepStatus (State.reset.withFetchWord 32 0x11) = some 0x00000012 ∧
    stepStatus (State.reset.withFetchWord 32 0x13) = some 0x00000022 ∧
    stepStatus (State.reset.withFetchWord 32 0x15) = some 0x00000042 := by decide +kernel

/-! ## Primitives -/

/-- V12. -/
theorem test_rotations :
    rol 0x80000001#32 1 = 0x00000003 ∧ rol 0x12345678#32 8 = 0x34567812 ∧ ror 0x12345678#32 8 = 0x78123456 ∧
    ror 0x12345678#32 4 = 0x81234567 ∧ rol 0x12345678#32 28 = 0x81234567 ∧ rol 0x12345678#32 0 = 0x12345678 ∧
    rol 0x12345678#32 32 = 0x12345678 ∧ rol 0x12345678#32 36 = 0x23456781 ∧ rol 0x00000#80 61 = 0 := by decide +kernel

/-- V13. -/
theorem test_modular :
    add32 0xFFFFFFFF 1 = 0 ∧ add32 0x80000000 0x80000000 = 0 ∧ sub32 0 1 = 0xFFFFFFFF ∧
    sub32 0x12345678 0x9ABCDEF0 = 0x77777788 ∧ sub32 (add32 0x9ABCDEF0 0x12345678) 0x12345678 = 0x9ABCDEF0 := by
  decide +kernel

/-- V14. -/
theorem test_gf256 :
    gmul8 0x57 0x83 = 0xC1 ∧ gmul8 0x53 0xCA = 0x01 ∧ gmul8 0 0x57 = 0 ∧ gmul8 0x57 1 = 0x57 ∧ xtime8 0x80 = 0x1B ∧
    gmul8 0x57 14 = 0x67 ∧ matmul gmul8 aesMix ⟨0xdb, 0x13, 0x53, 0x45⟩ = ⟨0x8e, 0x4d, 0xa1, 0xbc⟩ ∧
    matmul gmul8 aesInvMix ⟨0x8e, 0x4d, 0xa1, 0xbc⟩ = ⟨0xdb, 0x13, 0x53, 0x45⟩ := by decide +kernel

/-- V15. -/
theorem test_gf16 :
    gmul4 8 2 = 3 ∧ gmul4 8 3 = 0xB ∧ gmul4 0xF 0xF = 0xA ∧ gmul4 2 9 = 1 ∧ gmul4 3 0xE = 1 ∧ gmul4 0 7 = 0 := by
  decide +kernel

/-- V16. -/
theorem test_conversions :
    intToBits 0x8000000000000001#64 = true :: (List.replicate 62 false ++ [true]) ∧
    bitsToInt (true :: (List.replicate 62 false ++ [true])) = 0x8000000000000001 ∧
    split4 16 0x0123456789ABCDEF#64 = ⟨0x0123, 0x4567, 0x89AB, 0xCDEF⟩ ∧
    split4 32 0x101112131415161718191a1b1c1d1e1f#128 = ⟨0x10111213, 0x14151617, 0x18191a1b, 0x1c1d1e1f⟩ := by
  decide +kernel

/-! ## The engines -/

/-- V3. -/
theorem test_aes_round_functions :
    aesBlock (subBytes (aesState 0x193de3bea0f4e22b9ac68d2ae9f84808)) = 0xd42711aee0bf98f1b8b45de51e415230 ∧
    aesBlock (shiftRows (aesState 0xd42711aee0bf98f1b8b45de51e415230)) = 0xd4bf5d30e0b452aeb84111f11e2798e5 ∧
    aesBlock (mixColumns (aesState 0xd4bf5d30e0b452aeb84111f11e2798e5)) = 0x046681e5e0cb199a48f8d37a2806264c ∧
    aesBlock (invShiftRows (aesState 0x000102030405060708090a0b0c0d0e0f)) = 0x000d0a0704010e0b0805020f0c090603 := by
  decide +kernel

/-- V20: the round constants and the last round key of the zero key. -/
theorem test_aes_schedule :
    (List.range 14).map (fun i => aesRc (i + 1)) =
      [0x01, 0x02, 0x04, 0x08, 0x10, 0x20, 0x40, 0x80, 0x1b, 0x36, 0x6c, 0xd8, 0xab, 0x4d] ∧
    (aesKeySchedule 10 0)[10]? = some 0xb4ef5bcb3e92e21123e951cf6f8f188e := by decide +kernel

/-- V23, last line: one round (R145). -/
theorem test_aes_one_round :
    aesEncrypt 1 0x3243f6a8885a308d313198a2e0370734 0x2b7e151628aed2a6abf7158809cf4f3c =
      0x7445a32768e07e1f9be228c8344beee0 := by decide +kernel

/-- V44: the layers of PRESENT, and one key-register update. -/
theorem test_present_layers :
    sBoxLayer 0x0123456789abcdef = 0xc56b90ad3ef84712 ∧ pLayer 0x0123456789abcdef = 0x00ff0f0f33335555 ∧
    pLayer 2 = 0x10000 ∧ pLayer 0x4000000000000000 = 0x0000800000000000 ∧ invPLayer 0x00ff0f0f33335555 = 0x0123456789abcdef ∧
    presentUpdate 1 0 = 0xc0000000000000008000 := by decide +kernel

/-- V54: one round of LEA and its inverse. -/
theorem test_lea_round :
    leaRound ⟨0x10111213, 0x14151617, 0x18191a1b, 0x1c1d1e1f⟩
      ⟨0xa61c2e2f, 0x99d1e97e, 0xd59348e5, 0x99d1e97e, 0x9186771a, 0x99d1e97e⟩ =
        ⟨0xa4774a87, 0xba1a7a92, 0x41ed8c8c, 0x10111213⟩ ∧
    leaInvRound ⟨0xa4774a87, 0xba1a7a92, 0x41ed8c8c, 0x10111213⟩
      ⟨0xa61c2e2f, 0x99d1e97e, 0xd59348e5, 0x99d1e97e, 0x9186771a, 0x99d1e97e⟩ =
        ⟨0x10111213, 0x14151617, 0x18191a1b, 0x1c1d1e1f⟩ := by decide +kernel

/-- V55, first row: a published word is byte-reversed into this core's (R210). -/
theorem test_lea_published_bytes :
    reverseWordBytes 0x0f1e2d3c = 0x3c2d1e0f ∧
    (split4 32 (leaEncrypt 128 0x13121110171615141b1a19181f1e1d1c 0x3c2d1e0f78695a4bb4a59687f0e1d2c3)).map reverseWordBytes =
      ⟨0x9fc84e35, 0x28c6c618, 0x5532c7a7, 0x04648bfd⟩ := by decide +kernel

/-- V64. -/
theorem test_piccolo_components :
    piccoloF 0x0123 = 0x77a7 ∧ piccoloF 0x4567 = 0x3a26 ∧ piccoloF 0 = 0x5555 ∧
    piccoloRP ⟨0x0123, 0x4567, 0x89ab, 0xcdef⟩ = ⟨0x45ef, 0x8923, 0xcd67, 0x01ab⟩ ∧
    piccoloCon 0 piccoloC80 = (0x071c, 0x293d) ∧ piccoloCon 24 piccoloC80 = (0xc72c, 0x4925) ∧
    piccoloCon 30 piccoloC128 = (0x9d79, 0xd594) := by decide +kernel

/-! ## The commands -/

/-- V1. -/
theorem test_aesEnc : stepOut (inProgress 0x11 128 128 aesKey #v[0x3243f6a8, 0x885a308d, 0x313198a2, 0xe0370734]) =
    some (2, [some 0x3925841d, some 0x02dc09fb, some 0xdc118597, some 0x196a0b32]) := by decide +kernel

/-- V7, V70: both lengths wrong, the block length is reported; with the right block length, the key length. -/
theorem test_aesEnc_errors : stepStatus (inProgress 0x11 64 64 aesKey zeroBlk) = some 0x12 ∧
    stepStatus (inProgress 0x11 192 128 aesKey zeroBlk) = some 0x22 := by decide +kernel

/-- V2. -/
theorem test_aesDec : stepOut (inProgress 0x12 128 128 aesKey #v[0x3925841d, 0x02dc09fb, 0xdc118597, 0x196a0b32]) =
    some (2, [some 0x3243f6a8, some 0x885a308d, some 0x313198a2, some 0xe0370734]) := by decide +kernel

/-- V23: decryption of a block that no encryption produced. -/
theorem test_aesDec_zero : stepOut (inProgress 0x12 128 128 zeroKey zeroBlk) =
    some (2, [some 0x140f0f10, some 0x11b5223d, some 0x79587717, some 0xffd9ec3a]) := by decide +kernel

/-- V22: the words 40 to 43 are the last round key, and word 44 is not written; V70: BLK_LEN = 0 is no error. -/
theorem test_aesKs : stepKeys (inProgress 0x13 128 0 aesKey zeroBlk) [0, 4, 40, 43, 44] =
    some (2, 44, [some 0x2b7e1516, some 0xa0fafe17, some 0xd014f9a8, some 0xb6630ca6, none]) := by decide +kernel

/-- V24: the bits below the byte are ignored and the rest of OUTREG becomes 0. -/
theorem test_aesFrb : stepOut (inProgress 0x14 8 8 #v[0x2babcdef, 1, 2, 3, 4, 5, 6, 7] #v[0x32fedcba, 1, 2, 3]) =
    some (2, [some 0xd4000000, some 0, some 0, some 0]) := by decide +kernel

/-- V70: the two length errors of FRB. -/
theorem test_aesFrb_errors : stepStatus (inProgress 0x14 8 16 zeroKey zeroBlk) = some 0x12 ∧
    stepStatus (inProgress 0x14 128 8 zeroKey zeroBlk) = some 0x22 := by decide +kernel

/-- V45: KEY2[15:0] and BLK_IN2 are ignored. -/
theorem test_presentEnc :
    stepOut (inProgress 0x21 80 64 #v[0x00000123, 0x456789ab, 0xcdefffff, 9, 9, 9, 9, 9] #v[0x01234567, 0x89abcdef, 9, 9]) =
      some (2, [some 0x2f642b6a, some 0xa233c44b, some 0, some 0]) := by decide +kernel

/-- V6. -/
theorem test_presentDec : stepOut (inProgress 0x22 80 64 zeroKey #v[0x5579c138, 0x7b228445, 9, 9]) =
    some (2, [some 0, some 0, some 0, some 0]) := by decide +kernel

/-- V46. -/
theorem test_presentKs : stepKeys (inProgress 0x23 80 0 zeroKey zeroBlk) [1, 2, 4, 5, 62, 63, 64] =
    some (2, 64, [some 0, some 0xc0000000, some 0x50001800, some 1, some 0x6dab3174, some 0x4f41d700, none]) := by
  decide +kernel

/-- V50. -/
theorem test_leaEnc128 : stepOut (inProgress 0x31 128 128 leaKey #v[0x10111213, 0x14151617, 0x18191a1b, 0x1c1d1e1f]) =
    some (2, [some 0xaba3d37e, some 0xcdcb95e4, some 0xc924be72, some 0xcbfc48ab]) := by decide +kernel

/-- V52, and V7's wrong key length. -/
theorem test_leaEnc192 : stepOut (inProgress 0x31 192 128 leaKey #v[0x20212223, 0x24252627, 0x28292a2b, 0x2c2d2e2f]) =
    some (2, [some 0x076916ce, some 0xbbb8f968, some 0x49cbfc3c, some 0xe49c2eba]) ∧
    stepStatus (inProgress 0x31 160 128 leaKey zeroBlk) = some 0x22 := by decide +kernel

/-- V53. -/
theorem test_leaDec256 : stepOut (inProgress 0x32 256 128 leaKey #v[0x43373516, 0x528546d8, 0x24bed14e, 0x4dc65e3f]) =
    some (2, [some 0x30313233, some 0x34353637, some 0x38393a3b, some 0x3c3d3e3f]) := by decide +kernel

/-- V51. -/
theorem test_leaKs128 : stepKeys (inProgress 0x33 128 0 leaKey zeroBlk) [0, 2, 4, 138, 143, 144] =
    some (2, 144, [some 0xa61c2e2f, some 0xd59348e5, some 0x9186771a, some 0x3903e26b, some 0xcf98fe70, none]) := by
  decide +kernel

/-- R204: word 0 of RK_31 is RKMEM[186], and V53: RK_COUNT = 192. -/
theorem test_leaKs256 : stepKeys (inProgress 0x33 256 0 leaKey zeroBlk) [186, 191, 192] =
    some (2, 192, [some 0x6117b4d5, some 0x7fc96284, none]) := by decide +kernel

/-- V60. -/
theorem test_piccoloEnc80 : stepOut (inProgress 0x41 80 64 piccoloKey #v[0x01234567, 0x89abcdef, 7, 7]) =
    some (2, [some 0x8d2bff99, some 0x35f84056, some 0, some 0]) := by decide +kernel

/-- V62. -/
theorem test_piccoloEnc128 : stepOut (inProgress 0x41 128 64 piccoloKey #v[0x01234567, 0x89abcdef, 7, 7]) =
    some (2, [some 0x5ec42cea, some 0x657b89ff, some 0, some 0]) := by decide +kernel

/-- V60, V62: decryption under both key lengths. -/
theorem test_piccoloDec : stepOut (inProgress 0x42 80 64 piccoloKey #v[0x8d2bff99, 0x35f84056, 7, 7]) =
      some (2, [some 0x01234567, some 0x89abcdef, some 0, some 0]) ∧
    stepOut (inProgress 0x42 128 64 piccoloKey #v[0x5ec42cea, 0x657b89ff, 7, 7]) =
      some (2, [some 0x01234567, some 0x89abcdef, some 0, some 0]) := by decide +kernel

/-- V7: a wrong key length and a wrong block length. -/
theorem test_piccolo_errors : stepStatus (inProgress 0x42 96 64 piccoloKey zeroBlk) = some 0x22 ∧
    stepStatus (inProgress 0x41 80 128 piccoloKey zeroBlk) = some 0x12 := by decide +kernel

/-- V65. -/
theorem test_piccoloKs80 : stepKeys (inProgress 0x43 80 0 piccoloKey zeroBlk) [0, 1, 2, 3, 26, 27] =
    some (2, 27, [some 0x00332211, some 0x88776699, some 0x43494f4a, some 0x1f0b070d, some 0xc73d6b16, none]) := by
  decide +kernel

/-- V65. -/
theorem test_piccoloKs128 : stepKeys (inProgress 0x43 128 0 piccoloKey zeroBlk) [0, 1, 2, 3, 32, 33] =
    some (2, 33, [some 0x00332211, some 0x88ffee99, some 0x2910cbfd, some 0xfdda0b32, some 0xd92c7f2f, none]) := by
  decide +kernel

/-! ## The register window and reset -/

/-- V71: KEY_LEN drops the upper half. -/
theorem test_keyLen_write : stepReg (afterReset (.write .bits32 0x008 0x00010080)) .keyLen = some (some 0x80) := by
  decide +kernel

/-- V71: read-only registers. -/
theorem test_read_only_writes :
    stepReg (afterReset (.write .bits32 0x004 0xFFFFFFFF)) .status = some (some 0) ∧
    stepReg (afterReset (.write .bits32 0x010 5)) .rkCount = some (some 0) ∧
    stepReg (afterReset (.write .bits32 0x050 1)) (.blkOut 0) = some none := by decide +kernel

/-- V71: a CMD write while busy leaves CMD alone; an illegal word is stored while Idle. -/
theorem test_cmd_writes :
    stepReg { inProgress 0x12 128 128 aesKey zeroBlk with inputs := [.write .bits32 0 0x11] } .cmd = some (some 0x12) ∧
    stepReg (afterReset (.write .bits32 0 0x15)) .cmd = some (some 0x15) ∧
    stepReg (afterReset (.write .bits32 0 0x15)) .status = some (some 1) := by decide +kernel

/-- R29, R30: a data register reads back what was written, and only that one changes. -/
theorem test_data_write :
    stepReg (afterReset (.write .bits32 0x03C 0xDEADBEEF)) (.key 7) = some (some 0xDEADBEEF) ∧
    stepReg (afterReset (.write .bits32 0x03C 0xDEADBEEF)) (.blkIn 0) = some none ∧
    stepReg (afterReset (.write .bits32 0x04C 0xDEADBEEF)) (.blkIn 3) = some (some 0xDEADBEEF) := by decide +kernel

/-- P2, P5: the encodings of their operand writes, their RUN with a completion after one read, and their result reads. A KS call
writes neither BLK_IN nor BLK_LEN (R279). -/
theorem test_scripts :
    scriptOperands .aesFrb [0x2b000000] [0x32000000] 8 8 =
      [.write .bits32 0x020 0x2b000000, .write .bits32 0x008 8, .write .bits32 0x040 0x32000000, .write .bits32 0x00C 8] ∧
    scriptOperands .presentKs [0, 0, 0] [7] 80 64 =
      [.write .bits32 0x020 0, .write .bits32 0x024 0, .write .bits32 0x028 0, .write .bits32 0x008 80] ∧
    scriptRun .aesFrb 1 = [.write .bits32 0x000 0x14, .read .bits32 0x004, .complete, .read .bits32 0x004] ∧
    scriptResult .presentKs 64 2 = [.read .bits32 0x010, .read .bits32 0x400, .read .bits32 0x404] := by decide +kernel

/-- R279: a byte result is BLK_OUT0[31:24], a 64-bit one BLK_OUT0 and BLK_OUT1, a 128-bit one all four; V1, V7: what the host
makes of the final STATUS. -/
theorem test_results :
    scriptResult .aesFrb 8 0 = [.read .bits32 0x050] ∧ scriptResult .piccoloEnc 64 0 = [.read .bits32 0x050, .read .bits32 0x054] ∧
    (scriptResult .aesEnc 128 0).length = 4 ∧ resultBits 8 [0xd4000000] = 0xd4 ∧
    resultBits 64 [0x8d2bff99, 0x35f84056] = 0x8d2bff9935f84056 ∧
    callSucceeded 0x00000002 = true ∧ callSucceeded 0x00000022 = false ∧ callSucceeded 0x00000000 = false ∧
    callError 0x00000002 = none ∧ callError 0x00000012 = some .invalidBlockWidth ∧
    callError 0x00000022 = some .invalidKeyWidth := by decide +kernel

/-- P5: the operand writes may come in another order than the one of `scriptOperands` (R279, R325). -/
theorem test_isCall : isCall .aesFrb [0x2b000000] [0x32000000] 8 8 0 0
    ([.write .bits32 0x008 8, .write .bits32 0x00C 8, .write .bits32 0x040 0x32000000, .write .bits32 0x020 0x2b000000] ++
      scriptRun .aesFrb 0 ++ [.read .bits32 0x050]) := ⟨_, by decide, rfl⟩

/-- V72: reset while busy. -/
theorem test_reset_while_busy :
    stepReg { inProgress 0x11 128 128 aesKey zeroBlk with inputs := [.reset] } .status = some (some 0) ∧
    stepReg { inProgress 0x11 128 128 aesKey zeroBlk with inputs := [.reset] } .cmd = some (some 0) := by decide +kernel

/-- R20: the first and the last register of each range. -/
theorem test_register_map :
    regAt 0x01C = .reserved ∧ regAt 0x020 = .key 0 ∧ regAt 0x03C = .key 7 ∧ regAt 0x040 = .blkIn 0 ∧ regAt 0x04C = .blkIn 3 ∧
    regAt 0x050 = .blkOut 0 ∧ regAt 0x05C = .blkOut 3 ∧ regAt 0x060 = .reserved ∧ regAt 0x3FC = .reserved ∧
    regAt 0x400 = .rkmem 0 ∧ regAt 0x7FC = .rkmem 255 ∧ regAt 0x800 = .reserved ∧ regAt 0xFFC = .reserved := by
  decide +kernel

/-! ## Witnesses: the hypotheses of every statement are met -/

/-- The state a step answers, for steps that answer one. -/
def stepState (s : State) : State :=
  match step s with
  | .next t => t
  | _ => s

/-- The state a command's completion answers. -/
def execState (i : Instr) (s : State) : State :=
  match exec i s with
  | .next t => t
  | _ => s

theorem exec_execState (i : Instr) (s : State) : exec i s = .next (execState i s) := by cases i <;> rfl

/-- A step of a command in progress with no event pending. -/
theorem step_execState {s : State} {i : Instr} (hb : s.busy = true) (hn : s.inputs = []) (hd : decode s.lat.cmd = .ok i) :
    step s = .next (execState i s) := by
  rw [step_nil hn, ← exec_execState]
  simp [completeIfBusy, hb, completeStep, hd]

/-- Idle, every input register written, the last command a success with results in BLK_OUT and one word in RKMEM. -/
def idleState : State :=
  { State.reset with
    done := true, keyLen := 128, blkLen := 128, rkCount := 1, rkmem := [(0, 0xA5A5A5A5)]
    key := #v[.of 0, .of 1, .of 2, .of 3, .of 4, .of 5, .of 6, .of 7]
    blkIn := #v[.of 8, .of 9, .of 10, .of 11]
    blkOut := #v[.of 12, .of 13, .of 14, .of 15] }

/-- The same state with the command word `c` in progress under the given lengths. -/
def busyState (c : Word) (klen blen : BitVec 16) : State :=
  { idleState with
    cmd := c, busy := true, done := false
    lat := { cmd := c, key := aesKey, blk := zeroBlk, klen := klen, blen := blen } }

/-- A state with these pending events. -/
def withInputs (s : State) (es : List Event) : State := { s with inputs := es }

theorem not_ok_of_error {c : Word} {e : Illegal} (h : decode c = .error e) : ¬∃ i, decode c = .ok i := by
  rintro ⟨i, hi⟩
  rw [h] at hi
  cases hi

theorem idleState_inv : idleState.Inv := by
  constructor <;> decide

theorem busyState_inv (c : Word) (k b : BitVec 16) : (busyState c k b).Inv :=
  { idleState_inv with
    busy_clear := fun _ => ⟨rfl, rfl⟩
    err_done := fun h => absurd rfl h
    busy_cmd := fun _ => rfl }

theorem withInputs_inv {s : State} (h : s.Inv) (es : List Event) : (withInputs s es).Inv := { h with }

theorem witness_ValidWordsAndTheFateOfIllegalOnes :
    ∀ c ∈ [0x00000000#32, 0x00000024#32, 0x00000051#32, 0x80000011#32],
      (withInputs idleState [.write .bits32 0x000 c, .complete]).busy = false ∧ (¬∃ i, decode c = .ok i) ∧
        (withInputs idleState [.write .bits32 0x000 c, .complete]).inputs =
          .write .bits32 0x000 c :: .complete :: [] := by
  intro c hc
  refine ⟨rfl, ?_, rfl⟩
  simp only [List.mem_cons, List.not_mem_nil, or_false] at hc
  rcases hc with rfl | rfl | rfl | rfl
  · exact not_ok_of_error (e := .reservedOp) (by decide)
  · exact not_ok_of_error (e := .frbNotAes) (by decide)
  · exact not_ok_of_error (e := .reservedCipher) (by decide)
  · exact not_ok_of_error (e := .reservedBits) (by decide)

theorem witness_WindowAndWhatLiesOutsideIt :
    (0 < 0x1000 ∧ 0xFFF < 0x1000) ∧ (0x1FFF < 0x2000 ∧ 0x2000 + 0x1000 ≤ 0x3000) ∧ 0x1000 ≤ 0x1000 := by decide

theorem witness_RegisterMapOfTheWindow :
    ∀ off ∈ [0x014, 0x01C, 0x060, 0x3FC, 0x800, 0xFFC],
      (0x014 ≤ off ∧ off ≤ 0x01C) ∨ (0x060 ≤ off ∧ off ≤ 0x3FC) ∨ (0x800 ≤ off ∧ off ≤ 0xFFC) := by decide

theorem witness_ReservedOffsetsReadZeroAndIgnoreWrites :
    ∀ off ∈ [0x014, 0x01C, 0x060, 0x3FC, 0x800, 0xFFC], off % 4 = 0 ∧
      ((0x014 ≤ off ∧ off ≤ 0x01C) ∨ (0x060 ≤ off ∧ off ≤ 0x3FC) ∨ (0x800 ≤ off ∧ off ≤ 0xFFC)) ∧
      (withInputs idleState [.read .bits32 off]).inputs = .read .bits32 off :: [] ∧
      (withInputs idleState [.write .bits32 off 1]).inputs = .write .bits32 off 1 :: [] := by decide

theorem witness_OnlyAlignedWordAccessesAreAdmitted :
    (0 < 0x1000 ∧ (AccessSize.bits8 ≠ .bits32 ∨ 0 % 4 ≠ 0)) ∧
    (0xFFD < 0x1000 ∧ (AccessSize.bits32 ≠ .bits32 ∨ 0xFFD % 4 ≠ 0)) ∧
    (0xFFC < 0x1000 ∧ AccessSize.bits32 = .bits32 ∧ 0xFFC % 4 = 0) := by decide

theorem witness_BusReadHasNoSideEffect :
    (∃ t, idleState.busRead .bits32 0x050 = .next t) ∧ ∃ t, (busyState 0x11 128 128).busRead .bits32 0x050 = .next t :=
  ⟨⟨_, rfl⟩, ⟨_, rfl⟩⟩

theorem witness_ReadsWhileBusyAndAfter :
    (idleState.busy = false ∧ idleState.key[7] = .of 7 ∧ idleState.blkIn[3] = .of 11 ∧ idleState.blkOut[3] = .of 15 ∧
      Memory.get idleState.rkmem 0 = some 0xA5A5A5A5 ∧ Memory.get idleState.rkmem 255 = none) ∧
    (State.reset.busy = false ∧ State.reset.key[7].written = false ∧ State.reset.blkIn[3].written = false ∧
      State.reset.blkOut[3].written = false ∧ Memory.get State.reset.rkmem 0 = none) ∧
    (busyState 0x11 128 128).busy = true ∧ (busyState 0x11 128 128).key[0] = .of 0 := by decide

theorem witness_StatusIsReadOnlyAndClearedOnlyByCommandOrReset :
    (∀ n ∈ [2, 3, 8, 31], (2 ≤ n ∧ n ≤ 3) ∨ 8 ≤ n) ∧
    (withInputs idleState [.write .bits32 0x004 0xFFFFFFFF]).inputs = .write .bits32 0x004 0xFFFFFFFF :: [] ∧
    (∀ e ∈ [Event.write .bits32 0x000 0x11, Event.reset],
      (withInputs idleState [e]).Inv ∧ ∃ t, step (withInputs idleState [e]) = .next t ∧ idleState.done = true ∧
        t.done = false) ∧
    (∀ e ∈ [Event.write .bits32 0x000 0x11, Event.reset],
      (withInputs { idleState with err := 4 } [e]).Inv ∧ ∃ t, step (withInputs { idleState with err := 4 } [e]) = .next t ∧
        (4#4 ≠ 0 ∧ t.err = 0)) := by
  have hi : (withInputs { idleState with err := 4 } []).Inv :=
    { idleState_inv with busy_clear := nofun, err_done := fun _ => rfl, err_code := by decide, busy_cmd := nofun }
  refine ⟨by decide, rfl, ?_, ?_⟩ <;> intro e he <;> simp only [List.mem_cons, List.not_mem_nil, or_false] at he
  · rcases he with rfl | rfl
    · exact ⟨withInputs_inv idleState_inv _, _, rfl, rfl, rfl⟩
    · exact ⟨withInputs_inv idleState_inv _, _, rfl, rfl, rfl⟩
  · rcases he with rfl | rfl
    · exact ⟨{ hi with }, _, rfl, by decide, rfl⟩
    · exact ⟨{ hi with }, _, rfl, by decide, rfl⟩

theorem witness_LengthWritesKeepLowHalf :
    (withInputs idleState [.write .bits32 0x008 0x00010080]).inputs = .write .bits32 0x008 0x00010080 :: [] ∧
    (withInputs idleState [.write .bits32 0x00C 0xFFFF0000]).inputs = .write .bits32 0x00C 0xFFFF0000 :: [] := by decide

theorem witness_OperandWriteReadsBackAndTouchesNothingElse :
    (withInputs idleState [.write .bits32 0x03C 5]).inputs = .write .bits32 (0x020 + 4 * (7 : Fin 8).val) 5 :: [] ∧
    (withInputs (busyState 0x13 128 0) [.write .bits32 0x020 5]).inputs =
      .write .bits32 (0x020 + 4 * (0 : Fin 8).val) 5 :: [] ∧
    (withInputs (busyState 0x11 128 128) [.write .bits32 0x04C 5]).inputs =
      .write .bits32 (0x040 + 4 * (3 : Fin 4).val) 5 :: [] := by decide

theorem witness_OperandWritesOfACallInAnyOrder :
    ([0x2b000000#32].length ≤ 8 ∧ [0x32000000#32].length ≤ 4 ∧
      [Event.write .bits32 0x008 8, .write .bits32 0x00C 8, .write .bits32 0x040 0x32000000,
        .write .bits32 0x020 0x2b000000].Perm (scriptOperands .aesFrb [0x2b000000] [0x32000000] 8 8) ∧
      Instr.opField .aesFrb ≠ 3) ∧
    ([1#32, 2, 3, 4, 5, 6, 7, 8].length ≤ 8 ∧ [1#32, 2, 3, 4].length ≤ 4 ∧
      (scriptOperands .leaKs [1, 2, 3, 4, 5, 6, 7, 8] [1, 2, 3, 4] 256 0).Perm
        (scriptOperands .leaKs [1, 2, 3, 4, 5, 6, 7, 8] [1, 2, 3, 4] 256 0) ∧ Instr.opField .leaKs = 3) :=
  ⟨by decide, by decide, by decide, .refl _, rfl⟩

theorem witness_OutputRegistersIgnoreWrites :
    ∀ r ∈ [Reg.rkCount, .blkOut 0, .blkOut 3, .rkmem 0, .rkmem 255],
      (r = .rkCount ∨ (∃ j, r = .blkOut j) ∨ (∃ i, r = .rkmem i)) ∧
        (withInputs idleState [.write .bits32 r.offset 1]).inputs = .write .bits32 r.offset 1 :: [] := by
  intro r hr
  simp only [List.mem_cons, List.not_mem_nil, or_false] at hr
  rcases hr with rfl | rfl | rfl | rfl | rfl
  · exact ⟨.inl rfl, rfl⟩
  · exact ⟨.inr (.inl ⟨_, rfl⟩), rfl⟩
  · exact ⟨.inr (.inl ⟨_, rfl⟩), rfl⟩
  · exact ⟨.inr (.inr ⟨_, rfl⟩), rfl⟩
  · exact ⟨.inr (.inr ⟨_, rfl⟩), rfl⟩

theorem witness_AcceptedCommandTakesItsSnapshot :
    (withInputs idleState [.write .bits32 0x000 0x11]).busy = false ∧
    (withInputs idleState [.write .bits32 0x000 0x11]).inputs = .write .bits32 0x000 0x11 :: [] ∧
    idleState.key[7].known = some 7 ∧ idleState.blkIn[3].known = some 11 := by decide

theorem witness_CommandWriteWhileBusyIsDropped :
    (withInputs (busyState 0x11 128 128) [.write .bits32 0x000 0x12]).busy = true ∧
    (withInputs (busyState 0x11 128 128) [.write .bits32 0x000 0x12]).inputs = .write .bits32 0x000 0x12 :: [] := by decide

theorem witness_StepRunsTheDecodedCommand :
    ((busyState 0x11 128 128).busy = true ∧ decode (busyState 0x11 128 128).lat.cmd = .ok .aesEnc ∧
      Instr.wf .aesEnc = true ∧ (withInputs (busyState 0x11 128 128) [.complete]).inputs = .complete :: [] ∧
      (busyState 0x11 128 128).inputs = []) ∧
    ((busyState 0x15 128 128).busy = true ∧ (∃ e, decode (busyState 0x15 128 128).lat.cmd = .error e) ∧
      (withInputs (busyState 0x15 128 128) [.complete]).inputs = .complete :: [] ∧ (busyState 0x15 128 128).inputs = []) :=
  ⟨by decide, rfl, ⟨.reservedOp, by decide⟩, rfl, rfl⟩

theorem witness_SupportedLengthsAndFirstFailingCheck :
    (∃ e, decode (busyState 0x15 128 128).lat.cmd = .error e) ∧
    (decode (busyState 0x11 64 64).lat.cmd = .ok .aesEnc ∧ Instr.opField .aesEnc ≠ 3 ∧
      ∀ ls, blockLengths .aesEnc = some ls → (busyState 0x11 64 64).lat.blen.toNat ∉ ls) ∧
    (decode (busyState 0x33 160 0).lat.cmd = .ok .leaKs ∧ Instr.opField .leaKs = 3 ∧
      (busyState 0x33 160 0).lat.klen.toNat ∉ keyLengths .leaKs) ∧
    (decode (busyState 0x31 256 128).lat.cmd = .ok .leaEnc ∧
      (∃ ls, blockLengths .leaEnc = some ls ∧ (busyState 0x31 256 128).lat.blen.toNat ∈ ls) ∧
      (busyState 0x31 256 128).lat.klen.toNat ∈ keyLengths .leaEnc) := by
  refine ⟨⟨.reservedOp, by decide⟩, ⟨by decide, by decide, ?_⟩, by decide, by decide, ⟨_, rfl, by decide⟩, by decide⟩
  intro ls h
  cases h
  decide

theorem witness_CompletionWritesStatus :
    (withInputs (busyState 0x11 128 128) [.complete]).busy = true ∧
    (withInputs (busyState 0x11 128 128) [.complete]).inputs = .complete :: [] := by decide

theorem witness_FailedCommandChangesOnlyStatus :
    (withInputs (busyState 0x15 128 128) [.complete]).busy = true ∧
    (withInputs (busyState 0x15 128 128) [.complete]).inputs = .complete :: [] ∧
    validate (withInputs (busyState 0x15 128 128) [.complete]).lat = some .invalidCommand ∧
    validate (withInputs (busyState 0x11 64 64) [.complete]).lat = some .invalidBlockWidth ∧
    validate (withInputs (busyState 0x13 127 64) [.complete]).lat = some .invalidKeyWidth := by decide

theorem witness_CompletionIsAFunctionOfTheSnapshot :
    (busyState 0x11 128 128 ≠ inProgress 0x11 128 128 aesKey zeroBlk ∧
      (busyState 0x11 128 128).lat = (inProgress 0x11 128 128 aesKey zeroBlk).lat ∧
      decode (busyState 0x11 128 128).lat.cmd = .ok .aesEnc ∧ validate (busyState 0x11 128 128).lat = none ∧
      Instr.opField .aesEnc ≠ 3) ∧
    ((busyState 0x13 128 0).lat = (inProgress 0x13 128 0 aesKey zeroBlk).lat ∧
      decode (busyState 0x13 128 0).lat.cmd = .ok .aesKs ∧ validate (busyState 0x13 128 0).lat = none ∧
      Instr.opField .aesKs = 3 ∧ 43 < (execState .aesKs (busyState 0x13 128 0)).rkCount.toNat) := by decide +kernel

theorem witness_BusyFromAcceptanceToCompletion :
    (∃ t, step (withInputs idleState [.write .bits32 0x000 0x15]) = .next t ∧ idleState.busy = false ∧ t.busy = true) ∧
    (∃ t, step (withInputs (busyState 0x15 0 0) [.complete]) = .next t ∧ (busyState 0x15 0 0).busy = true ∧
      t.busy = false ∧ (busyState 0x15 0 0).done = false ∧ t.done = true ∧ t.err ≠ (busyState 0x15 0 0).err ∧ t.err ≠ 0) ∧
    (∃ t, step (withInputs (busyState 0x15 0 0) [.write .bits32 0x000 0x11]) = .next t ∧ (busyState 0x15 0 0).busy = true ∧
      t.busy = true) ∧
    ((withInputs idleState [.complete]).busy = false ∧ (withInputs idleState [.complete]).inputs = .complete :: []) :=
  ⟨⟨_, rfl, rfl, rfl⟩, ⟨_, rfl, rfl, rfl, rfl, rfl, by decide, by decide⟩, ⟨_, rfl, rfl, rfl⟩, rfl, rfl⟩

theorem witness_OnlySuccessfulCompletionsChangeOutputs :
    (step (busyState 0x14 8 8) = .next (execState .aesFrb (busyState 0x14 8 8)) ∧
      (∀ es, (busyState 0x14 8 8).inputs ≠ .reset :: es) ∧
      (execState .aesFrb (busyState 0x14 8 8)).blkOut ≠ (busyState 0x14 8 8).blkOut) ∧
    (step (busyState 0x13 128 0) = .next (execState .aesKs (busyState 0x13 128 0)) ∧
      (∀ es, (busyState 0x13 128 0).inputs ≠ .reset :: es) ∧
      ((∃ n, Memory.get (execState .aesKs (busyState 0x13 128 0)).rkmem n ≠ Memory.get (busyState 0x13 128 0).rkmem n) ∨
        (execState .aesKs (busyState 0x13 128 0)).rkCount ≠ (busyState 0x13 128 0).rkCount)) :=
  ⟨⟨step_execState rfl rfl (by decide), nofun, by decide +kernel⟩,
    ⟨step_execState rfl rfl (by decide), nofun, .inl ⟨0, by decide +kernel⟩⟩⟩

theorem witness_OnlyTheHostChangesOperands :
    (∃ t, step (withInputs idleState [.write .bits32 0x03C 0]) = .next t ∧
      (∀ es, (withInputs idleState [.write .bits32 0x03C 0]).inputs ≠ .reset :: es) ∧ t.key[7] ≠ idleState.key[7]) ∧
    (∃ t, step (withInputs idleState [.write .bits32 0x04C 0]) = .next t ∧
      (∀ es, (withInputs idleState [.write .bits32 0x04C 0]).inputs ≠ .reset :: es) ∧ t.blkIn[3] ≠ idleState.blkIn[3]) :=
  ⟨⟨_, rfl, nofun, by decide +kernel⟩, ⟨_, rfl, nofun, by decide +kernel⟩⟩

theorem witness_PollAfterAcceptanceTerminates :
    (withInputs (busyState 0x11 128 128) (scriptPoll 3 ++ [])).Inv ∧
    (withInputs (busyState 0x11 128 128) (scriptPoll 3 ++ [])).busy = true ∧
    (withInputs (busyState 0x11 128 128) (scriptPoll 3 ++ [])).inputs = scriptPoll 3 ++ [] :=
  ⟨withInputs_inv (busyState_inv _ _ _) _, rfl, rfl⟩

theorem witness_NothingPendingMeansCompletionOrIdle :
    ((busyState 0x11 128 128).inputs = [] ∧ (busyState 0x11 128 128).busy = true) ∧
    (idleState.inputs = [] ∧ idleState.busy = false) := by decide

theorem witness_NothingReadsTheEngineState :
    (∃ t, step (busyState 0x11 128 128) = .next t) ∧
    step (withInputs idleState [.read .bits32 0x1000]) = .fault .outsideWindow ∧
    step (withInputs idleState [.read .bits8 0x000]) = .refused .undefinedAccess :=
  ⟨⟨_, step_execState (i := .aesEnc) rfl rfl (by decide)⟩, rfl, rfl⟩

/-- A register of each of the four kinds. -/
theorem witness_ResetValues :
    ∀ r ∈ [Reg.key 7, .blkIn 3, .blkOut 0, .rkmem 255],
      (∃ j, r = .key j) ∨ (∃ j, r = .blkIn j) ∨ (∃ j, r = .blkOut j) ∨ (∃ i, r = .rkmem i) := by
  simp

theorem witness_ResetFromAnyState :
    (withInputs (busyState 0x11 128 128) [.reset]).inputs = .reset :: [] ∧
    (withInputs idleState [.reset]).inputs = .reset :: [] := by decide

theorem witness_EveryStepKeepsTheInvariant :
    (idleState.Inv ∧ step idleState = .next idleState) ∧
    (busyState 0x13 128 0).Inv ∧ step (busyState 0x13 128 0) = .next (execState .aesKs (busyState 0x13 128 0)) :=
  ⟨⟨idleState_inv, rfl⟩, busyState_inv _ _ _, step_execState rfl rfl (by decide)⟩

theorem witness_OperandsAreTheFirstBitsOfTheRegisters :
    (1 ≤ 1 ∧ 1 ≤ 256) ∧ (1 ≤ 256 ∧ 256 ≤ 256) ∧ (1 ≤ 1 ∧ 1 ≤ 128) ∧ (1 ≤ 128 ∧ 128 ≤ 128) := by decide

/-- The lengths of a snapshot. -/
abbrev lengths (k b : BitVec 16) (s : State) : Prop := s.lat.klen = k ∧ s.lat.blen = b

theorem witness_AesEncEffect :
    lengths 128 128 (busyState 0x11 128 128) ∧ (busyState 0x11 128 64).lat.blen ≠ 128 ∧
    ((busyState 0x11 192 128).lat.blen = 128 ∧ (busyState 0x11 192 128).lat.klen ≠ 128) := by decide

theorem witness_AesDecEffect :
    lengths 128 128 (busyState 0x12 128 128) ∧ (busyState 0x12 128 0).lat.blen ≠ 128 ∧
    ((busyState 0x12 0 128).lat.blen = 128 ∧ (busyState 0x12 0 128).lat.klen ≠ 128) := by decide

theorem witness_AesKsEffect :
    (busyState 0x13 128 0).lat.klen = 128 ∧ (busyState 0x13 127 0).lat.klen ≠ 128 ∧ (10 ≤ 10 ∧ 3 < 4) := by decide

theorem witness_AesFrbEffect :
    lengths 8 8 (busyState 0x14 8 8) ∧ (busyState 0x14 8 16).lat.blen ≠ 8 ∧
    ((busyState 0x14 128 8).lat.blen = 8 ∧ (busyState 0x14 128 8).lat.klen ≠ 8) := by decide

theorem witness_PresentEncEffect :
    lengths 80 64 (busyState 0x21 80 64) ∧ (busyState 0x21 80 128).lat.blen ≠ 64 ∧
    ((busyState 0x21 128 64).lat.blen = 64 ∧ (busyState 0x21 128 64).lat.klen ≠ 80) := by decide

theorem witness_PresentDecEffect :
    lengths 80 64 (busyState 0x22 80 64) ∧ (busyState 0x22 80 128).lat.blen ≠ 64 ∧
    ((busyState 0x22 64 64).lat.blen = 64 ∧ (busyState 0x22 64 64).lat.klen ≠ 80) := by decide

theorem witness_PresentKsEffect :
    (busyState 0x23 80 0).lat.klen = 80 ∧ (busyState 0x23 64 0).lat.klen ≠ 80 ∧ (31 < 32 ∧ 1 < 2) := by decide

theorem witness_LeaEncEffect :
    (lengths 128 128 (busyState 0x31 128 128) ∧ lengths 192 128 (busyState 0x31 192 128) ∧
      lengths 256 128 (busyState 0x31 256 128)) ∧ (busyState 0x31 128 64).lat.blen ≠ 128 ∧
    ((busyState 0x31 160 128).lat.blen = 128 ∧ (busyState 0x31 160 128).lat.klen ≠ 128 ∧
      (busyState 0x31 160 128).lat.klen ≠ 192 ∧ (busyState 0x31 160 128).lat.klen ≠ 256) := by decide

theorem witness_LeaDecEffect :
    (lengths 128 128 (busyState 0x32 128 128) ∧ lengths 192 128 (busyState 0x32 192 128) ∧
      lengths 256 128 (busyState 0x32 256 128)) ∧ (busyState 0x32 128 64).lat.blen ≠ 128 ∧
    ((busyState 0x32 512 128).lat.blen = 128 ∧ (busyState 0x32 512 128).lat.klen ≠ 128 ∧
      (busyState 0x32 512 128).lat.klen ≠ 192 ∧ (busyState 0x32 512 128).lat.klen ≠ 256) := by decide

theorem witness_LeaKsEffect :
    ((busyState 0x33 128 0).lat.klen = 128 ∧ (busyState 0x33 192 0).lat.klen = 192 ∧
      (busyState 0x33 256 0).lat.klen = 256) ∧ (23 < 24 ∧ 27 < 28 ∧ 31 < 32) ∧
    ((busyState 0x33 0 0).lat.klen ≠ 128 ∧ (busyState 0x33 0 0).lat.klen ≠ 192 ∧ (busyState 0x33 0 0).lat.klen ≠ 256) := by decide

theorem witness_PiccoloEncEffect :
    (lengths 80 64 (busyState 0x41 80 64) ∧ lengths 128 64 (busyState 0x41 128 64)) ∧ (busyState 0x41 80 128).lat.blen ≠ 64 ∧
    ((busyState 0x41 96 64).lat.blen = 64 ∧ (busyState 0x41 96 64).lat.klen ≠ 80 ∧
      (busyState 0x41 96 64).lat.klen ≠ 128) := by decide

theorem witness_PiccoloDecEffect :
    (lengths 80 64 (busyState 0x42 80 64) ∧ lengths 128 64 (busyState 0x42 128 64)) ∧ (busyState 0x42 80 128).lat.blen ≠ 64 ∧
    ((busyState 0x42 96 64).lat.blen = 64 ∧ (busyState 0x42 96 64).lat.klen ≠ 80 ∧
      (busyState 0x42 96 64).lat.klen ≠ 128) := by decide

theorem witness_PiccoloKsEffect :
    ((busyState 0x43 80 0).lat.klen = 80 ∧ (busyState 0x43 128 0).lat.klen = 128) ∧ (24 < 25 ∧ 30 < 31) ∧
    ((busyState 0x43 64 64).lat.klen ≠ 80 ∧ (busyState 0x43 64 64).lat.klen ≠ 128) := by decide

theorem witness_RotationAndModularArithmetic : (0 < 1 ∧ 31 < 32 ∧ 79 < 80) ∧ 0 ≤ 32 ∧ 32 ≤ 32 := by decide

theorem witness_BitSequenceConversions : 0 < 64 ∧ 79 < 80 := by decide

theorem witness_AesSboxIsTheAlgebraicOne : (0x53 : Byte) ≠ 0 ∧ gmul8 0x53 0xCA = 1 := by decide +kernel

theorem witness_AesDecryptInvertsEncrypt : 1 ≤ 1 ∧ 1 ≤ 10 := by decide

theorem witness_PresentSBoxLayersByNibble : 0 < 16 ∧ 15 < 16 := by decide

theorem witness_PresentPermutationMovesEachBit : 62 < 64 ∧ 63 < 64 := by decide

theorem witness_LeaDecryptInvertsEncrypt : ∀ L ∈ [128, 192, 256], L = 128 ∨ L = 192 ∨ L = 256 := by decide

theorem witness_PiccoloRoundPermutationByBytes :
    splitList 8 8 (join16 ⟨0x0123, 0x4567, 0x89ab, 0xcdef⟩) =
      [0x01#8, 0x23#8, 0x45#8, 0x67#8, 0x89#8, 0xab#8, 0xcd#8, 0xef#8] := by decide +kernel

theorem witness_PiccoloDecryptInvertsEncrypt : ∀ L ∈ [80, 128], L = 80 ∨ L = 128 := by decide

/-- The hypotheses of the round trip, all of them. -/
abbrev roundTripPremises (enc dec : Instr) (s s' : State) : Prop :=
  (enc, dec) ∈ [(Instr.aesEnc, Instr.aesDec), (.presentEnc, .presentDec), (.leaEnc, .leaDec), (.piccoloEnc, .piccoloDec)] ∧
  validateLengths enc s.lat = none ∧ exec enc s = .next (execState enc s) ∧
  s'.lat.key = s.lat.key ∧ s'.lat.klen = s.lat.klen ∧ s'.lat.blen = s.lat.blen ∧
  ∀ j : Fin 4, 32 * j.val < s.lat.blen.toNat → (execState enc s).readReg (.blkOut j) = some s'.lat.blk[j.val]

/-- V1 and V2. -/
theorem witness_EncryptThenDecryptRestoresTheBlock_aes :
    roundTripPremises .aesEnc .aesDec
      (inProgress 0x11 128 128 aesKey #v[0x3243f6a8, 0x885a308d, 0x313198a2, 0xe0370734])
      (inProgress 0x12 128 128 aesKey #v[0x3925841d, 0x02dc09fb, 0xdc118597, 0x196a0b32]) :=
  ⟨by decide, by decide, exec_execState _ _, rfl, rfl, rfl, by decide +kernel⟩

/-- V6, with other words behind the block. -/
theorem witness_EncryptThenDecryptRestoresTheBlock_present :
    roundTripPremises .presentEnc .presentDec (inProgress 0x21 80 64 zeroKey zeroBlk)
      (inProgress 0x22 80 64 zeroKey #v[0x5579c138, 0x7b228445, 9, 9]) :=
  ⟨by decide, by decide, exec_execState _ _, rfl, rfl, rfl, by decide +kernel⟩

/-- V53. -/
theorem witness_EncryptThenDecryptRestoresTheBlock_lea :
    roundTripPremises .leaEnc .leaDec
      (inProgress 0x31 256 128 leaKey #v[0x30313233, 0x34353637, 0x38393a3b, 0x3c3d3e3f])
      (inProgress 0x32 256 128 leaKey #v[0x43373516, 0x528546d8, 0x24bed14e, 0x4dc65e3f]) :=
  ⟨by decide, by decide, exec_execState _ _, rfl, rfl, rfl, by decide +kernel⟩

/-- V62, with other words behind the block. -/
theorem witness_EncryptThenDecryptRestoresTheBlock_piccolo :
    roundTripPremises .piccoloEnc .piccoloDec (inProgress 0x41 128 64 piccoloKey #v[0x01234567, 0x89abcdef, 7, 7])
      (inProgress 0x42 128 64 piccoloKey #v[0x5ec42cea, 0x657b89ff, 9, 9]) :=
  ⟨by decide, by decide, exec_execState _ _, rfl, rfl, rfl, by decide +kernel⟩

end Sys2Proof.Tests
end

section
/-! What a step of the register interface can do, event by event, and what it leaves unchanged. -/

namespace Sys2Proof.Machine

/-! ## The first pending event -/

/-- The state with its first pending event, if there is one, taken off the list. -/
@[simps] def State.popEvent (s : State) : State := { s with inputs := s.inputs.tail }

theorem State.popEvent_of_nil {s : State} (h : s.inputs = []) : s.popEvent = s := by
  simp only [State.popEvent, h, List.tail_nil]
  rw [← h]

theorem State.popEvent_of_cons {s : State} {e : Event} {es : List Event} (h : s.inputs = e :: es) :
    s.popEvent = { s with inputs := es } := by
  rw [State.popEvent, h, List.tail_cons]

/-- It is the completion step's turn: at a `complete` event, or because nothing is pending (log entry 2). -/
def State.completionDue (s : State) : Prop := s.inputs = [] ∨ ∃ es, s.inputs = .complete :: es

/-! ## The register map backwards -/

theorem regAt_reserved {off : Nat}
    (h : (0x014 ≤ off ∧ off ≤ 0x01C) ∨ (0x060 ≤ off ∧ off ≤ 0x3FC) ∨ (0x800 ≤ off ∧ off ≤ 0xFFC)) :
    regAt off = .reserved := by
  rw [regAt, if_neg (by omega), if_neg (by omega), if_neg (by omega), if_neg (by omega), if_neg (by omega),
    dif_neg (by omega), dif_neg (by omega), dif_neg (by omega), dif_neg (by omega)]

/-- An aligned offset that is not reserved is the offset of the register at it (R20, R91). -/
theorem offset_of_regAt {off : Nat} {r : Reg} (h4 : off % 4 = 0) (hr : regAt off = r) (hres : r ≠ .reserved) :
    r.offset = off := by
  subst hr
  unfold regAt at hres ⊢
  split_ifs at hres ⊢ <;> simp only [Reg.offset, ne_eq, not_true_eq_false] at hres ⊢ <;> omega

/-- A defined access is a 32-bit one at a multiple of 4 (R61). -/
theorem size_and_align_of_accessWf {size : AccessSize} {off : Nat} (h : accessWf size off = true) :
    size = .bits32 ∧ off % 4 = 0 := by
  simp only [accessWf, Bool.and_eq_true, decide_eq_true_eq, beq_iff_eq] at h
  exact h.2

/-! ## What a register write leaves unchanged -/

@[simp] theorem writeReg_key_same (s : State) (j : Fin 8) (v : Word) :
    (s.writeReg (.key j) v).key[j.val] = .of v := by
  simp [State.writeReg]

@[simp] theorem writeReg_blkIn_same (s : State) (j : Fin 4) (v : Word) :
    (s.writeReg (.blkIn j) v).blkIn[j.val] = .of v := by
  simp [State.writeReg]

/-- R29: a write to another register leaves a KEY register alone. -/
theorem writeReg_key_of_ne {r : Reg} {j : Fin 8} (h : r ≠ .key j) (s : State) (v : Word) :
    (s.writeReg r v).key[j.val] = s.key[j.val] := by
  cases r with
  | key j' =>
    have hj : j'.val ≠ j.val := fun hj => h (congrArg Reg.key (Fin.ext hj))
    exact Vector.getElem_set_ne j'.isLt j.isLt hj
  | cmd => simp only [State.writeReg]; split <;> rfl
  | _ => rfl

/-- R30: a write to another register leaves a BLK_IN register alone. -/
theorem writeReg_blkIn_of_ne {r : Reg} {j : Fin 4} (h : r ≠ .blkIn j) (s : State) (v : Word) :
    (s.writeReg r v).blkIn[j.val] = s.blkIn[j.val] := by
  cases r with
  | blkIn j' =>
    have hj : j'.val ≠ j.val := fun hj => h (congrArg Reg.blkIn (Fin.ext hj))
    exact Vector.getElem_set_ne j'.isLt j.isLt hj
  | cmd => simp only [State.writeReg]; split <;> rfl
  | _ => rfl

/-- R26, R27, R29, R30: a write to an input register changes what no other register reads as. -/
theorem readReg_writeReg_of_ne {r r' : Reg} (hop : r.isOperand = true) (hne : r' ≠ r) (s : State) (v : Word) :
    (s.writeReg r v).readReg r' = s.readReg r' := by
  cases r with
  | key j =>
    cases r' with
    | key j' => exact congrArg DataWord.known (writeReg_key_of_ne hne.symm s v)
    | _ => rfl
  | blkIn j =>
    cases r' with
    | blkIn j' => exact congrArg DataWord.known (writeReg_blkIn_of_ne hne.symm s v)
    | _ => rfl
  | keyLen =>
    cases r' with
    | keyLen => exact absurd rfl hne
    | _ => rfl
  | blkLen =>
    cases r' with
    | blkLen => exact absurd rfl hne
    | _ => rfl
  | _ => cases hop

/-! ## The completion step -/

theorem validate_of_ok {lat : Latch} {i : Instr} (h : decode lat.cmd = .ok i) :
    validate lat = validateLengths i lat := by
  rw [validate, h]

theorem validate_of_error {lat : Latch} {e : Illegal} (h : decode lat.cmd = .error e) :
    validate lat = some .invalidCommand := by
  rw [validate, h]

/-- R290, R294: validation reports the codes 1, 2 and 4 only. -/
theorem code_of_validate {lat : Latch} {e : ErrorKind} (h : validate lat = some e) :
    e.code = 1 ∨ e.code = 2 ∨ e.code = 4 := by
  cases hd : decode lat.cmd with
  | error x =>
    obtain rfl : .invalidCommand = e := by simpa [validate_of_error hd] using h
    exact .inr (.inr rfl)
  | ok i =>
    rw [validate_of_ok hd] at h
    rcases validateLengths_cases i lat with hv | hv | hv <;> rw [hv] at h <;> cases h
    · exact .inl rfl
    · exact .inr (.inl rfl)

/-- A command writes round keys exactly when it is a KS command (R81). -/
theorem resultOf_eq_none_iff (i : Instr) (lat : Latch) : resultOf i lat = none ↔ i.opField = 3 := by
  cases i <;> simp [resultOf, Instr.opField]

/-- What the completion step can do: report the first failing check (R291, R293), write OUTREG (R87), or write round keys
(R32). -/
theorem completeStep_outcome {s t : State} (h : completeStep s = .next t) :
    (∃ e, validate s.lat = some e ∧ t = s.raiseError e) ∨
    (∃ i W, ∃ R : BitVec W, validate s.lat = none ∧ decode s.lat.cmd = .ok i ∧ i.opField ≠ 3 ∧
      resultOf i s.lat = some ⟨W, R⟩ ∧ t = (s.writeOut R).succeed) ∨
    (∃ i, validate s.lat = none ∧ decode s.lat.cmd = .ok i ∧ i.opField = 3 ∧
      t = (s.writeRoundKeys (roundKeyWordsOf i s.lat)).succeed) := by
  rcases completeStep_cases s with ⟨i, hd, hc⟩ | ⟨x, hd, hc⟩ <;> rw [hc] at h
  · rw [validate_of_ok hd]
    rcases exec_cases h with ⟨e, hv, ht⟩ | ⟨W, R, hv, hr, ht⟩ | ⟨hv, hr, ht⟩
    · exact .inl ⟨e, hv, ht⟩
    · have hop : i.opField ≠ 3 := fun h3 => by simp [(resultOf_eq_none_iff i s.lat).mpr h3] at hr
      exact .inr (.inl ⟨i, W, R, hv, hd, hop, hr, ht⟩)
    · exact .inr (.inr ⟨i, hv, hd, (resultOf_eq_none_iff i s.lat).mp hr, ht⟩)
  · exact .inl ⟨_, validate_of_error hd, by simpa using h.symm⟩

/-- R22, R23, R273: after the completion step BUSY is 0 and DONE is 1, and ERR is 0 or a reported code. -/
theorem completeStep_status {s t : State} (h : completeStep s = .next t) :
    t.busy = false ∧ t.done = true ∧ (t.err = 0 ∨ t.err = 1 ∨ t.err = 2 ∨ t.err = 4) := by
  rcases completeStep_outcome h with ⟨e, hv, rfl⟩ | ⟨_, _, _, -, -, -, -, rfl⟩ | ⟨_, -, -, -, rfl⟩
  · exact ⟨rfl, rfl, .inr (code_of_validate hv)⟩
  · exact ⟨rfl, rfl, .inl rfl⟩
  · exact ⟨rfl, rfl, .inl rfl⟩

/-- The completion step writes neither what only the host writes nor the snapshot. -/
theorem completeStep_inputsKept {s t : State} (h : completeStep s = .next t) : s.inputsKept t := by
  rcases completeStep_outcome h with ⟨e, -, rfl⟩ | ⟨_, _, _, -, -, -, -, rfl⟩ | ⟨_, -, -, -, rfl⟩ <;>
    simp [State.inputsKept]

theorem completeIfBusy_of_busy {s : State} (h : s.busy = true) : completeIfBusy s = completeStep s := if_pos h

theorem completeIfBusy_of_idle {s : State} (h : s.busy = false) : completeIfBusy s = .next s := by
  simp [completeIfBusy, h]

/-- The completion step happens while BUSY = 1; otherwise nothing does (R278). -/
theorem completeIfBusy_cases {s t : State} (h : completeIfBusy s = .next t) :
    (s.busy = true ∧ completeStep s = .next t) ∨ (s.busy = false ∧ t = s) := by
  cases hb : s.busy with
  | true => exact .inl ⟨rfl, completeIfBusy_of_busy hb ▸ h⟩
  | false =>
    rw [completeIfBusy_of_idle hb] at h
    exact .inr ⟨rfl, by simpa using h.symm⟩

/-! ## One step -/

/-- What a step to a next state was, by the event it performed: `step_cases` with the event kept. -/
theorem step_event_cases {s t : State} (h : step s = .next t) :
    (s.completionDue ∧ completeIfBusy s.popEvent = .next t) ∨
    (∃ off es, s.inputs = .read .bits32 off :: es ∧ off % 4 = 0 ∧
      t = s.popEvent.reply (s.popEvent.readReg (regAt off))) ∨
    (∃ off v es, s.inputs = .write .bits32 off v :: es ∧ off % 4 = 0 ∧ t = s.popEvent.writeReg (regAt off) v) ∨
    (∃ es, s.inputs = .reset :: es ∧ t = s.popEvent.resetCore) := by
  cases hin : s.inputs with
  | nil => exact .inl ⟨.inl hin, by rw [State.popEvent_of_nil hin, ← step_nil hin, h]⟩
  | cons e es =>
    rw [step_cons hin, ← State.popEvent_of_cons hin] at h
    cases e with
    | read size off =>
      obtain ⟨hwf, ht⟩ := busRead_cases h
      obtain ⟨rfl, h4⟩ := size_and_align_of_accessWf hwf
      exact .inr (.inl ⟨off, es, rfl, h4, ht⟩)
    | write size off v =>
      obtain ⟨hwf, ht⟩ := busWrite_cases h
      obtain ⟨rfl, h4⟩ := size_and_align_of_accessWf hwf
      exact .inr (.inr (.inl ⟨off, v, es, rfl, h4, ht⟩))
    | complete => exact .inl ⟨.inr ⟨es, hin⟩, h⟩
    | reset => exact .inr (.inr (.inr ⟨es, rfl, by simpa [perform] using h.symm⟩))

/-- Everything but the input registers and the model's own fields is as before. -/
structure State.CoreKept (s t : State) : Prop where
  status : s.statusKept t
  cmd : t.cmd = s.cmd
  lat : t.lat = s.lat
  out : s.outKept t
  rkmem : t.rkmem = s.rkmem
  rkCount : t.rkCount = s.rkCount

theorem coreKept_popEvent (s : State) : s.CoreKept s.popEvent := ⟨⟨rfl, rfl, rfl⟩, rfl, rfl, rfl, rfl, rfl⟩

theorem coreKept_reply (s : State) (v : Option Word) : s.CoreKept (s.popEvent.reply v) := by
  constructor <;> simp [State.statusKept, State.outKept]

/-- A register write either starts a command, or leaves all but the input registers as it was. -/
theorem writeReg_core_cases (s : State) (r : Reg) (v : Word) :
    (r = .cmd ∧ s.busy = false ∧ s.popEvent.writeReg r v = s.popEvent.accept v) ∨
    s.CoreKept (s.popEvent.writeReg r v) := by
  rcases writeReg_cases s.popEvent r v with hcmd | ⟨kl, bl, k, b, h⟩
  · exact .inl hcmd
  · rw [h]
    exact .inr ⟨⟨rfl, rfl, rfl⟩, rfl, rfl, rfl, rfl, rfl⟩

/-- What a step to a next state did to the core: it was the completion step of a command in progress, or it kept all but the
input registers, or it accepted a command, or it was reset. -/
theorem step_core_cases {s t : State} (h : step s = .next t) :
    (s.completionDue ∧ s.busy = true ∧ completeStep s.popEvent = .next t) ∨
    s.CoreKept t ∨
    (∃ v es, s.inputs = .write .bits32 0x000 v :: es ∧ s.busy = false ∧ t = s.popEvent.accept v) ∨
    (∃ es, s.inputs = .reset :: es ∧ t = s.popEvent.resetCore) := by
  rcases step_event_cases h with ⟨hdue, hc⟩ | ⟨off, es, -, -, rfl⟩ | ⟨off, v, es, hin, h4, rfl⟩ | hreset
  · rcases completeIfBusy_cases hc with ⟨hb, hc⟩ | ⟨-, rfl⟩
    · exact .inl ⟨hdue, hb, hc⟩
    · exact .inr (.inl (coreKept_popEvent s))
  · exact .inr (.inl (coreKept_reply s _))
  · rcases writeReg_core_cases s (regAt off) v with ⟨hr, hb, ht⟩ | hkept
    · obtain rfl : 0x000 = off := offset_of_regAt h4 hr (by simp)
      exact .inr (.inr (.inl ⟨v, es, hin, hb, ht⟩))
    · exact .inr (.inl hkept)
  · exact .inr (.inr (.inr hreset))

/-! ## The invariant -/

/-- The part of `State.Inv` that speaks of the round keys: RKMEM is canonical, the count is at most 192, and the words below
it are written. -/
structure RoundKeysWf (m : Memory) (n : BitVec 16) : Prop where
  wf : Memory.wf m
  le : n.toNat ≤ 192
  written : ∀ i, i < n.toNat → (Memory.get m i).isSome = true

theorem State.Inv.roundKeys {s : State} (h : s.Inv) : RoundKeysWf s.rkmem s.rkCount :=
  ⟨h.rkmem_wf, h.rkCount_le, h.rkCount_written⟩

/-- R32, D21: the words a KS command writes, at most 192, are the words its count counts. -/
theorem RoundKeysWf.of_writeFront {m : Memory} (h : Memory.wf m) {ws : List Word} (hlen : ws.length ≤ 192) :
    RoundKeysWf (Memory.writeFront m ws) (BitVec.ofNat 16 ws.length) := by
  have hcount : (BitVec.ofNat 16 ws.length).toNat = ws.length := by
    rw [BitVec.toNat_ofNat]; omega
  refine ⟨Memory.wf_writeFront h ws, by omega, fun i hi => ?_⟩
  rw [hcount] at hi
  rw [Memory.get_writeFront_lt m (by simp only [Config.rkmemWords]; omega) hi, List.getElem?_eq_getElem hi]
  rfl

/-- The round keys stay well-formed over a completion step (R28, R32). -/
theorem completeStep_roundKeysWf {s t : State} (hs : RoundKeysWf s.rkmem s.rkCount) (h : completeStep s = .next t) :
    RoundKeysWf t.rkmem t.rkCount := by
  rcases completeStep_outcome h with ⟨e, -, rfl⟩ | ⟨_, _, _, -, -, -, -, rfl⟩ | ⟨i, -, -, -, rfl⟩
  · exact hs
  · exact hs
  · exact .of_writeFront hs.wf (length_roundKeyWordsOf_le i s.lat)

theorem State.Inv.of_completeStep {s t : State} (hs : RoundKeysWf s.rkmem s.rkCount) (h : completeStep s = .next t) :
    t.Inv := by
  obtain ⟨hbusy, hdone, hcode⟩ := completeStep_status h
  obtain ⟨hwf, hle, hwritten⟩ := completeStep_roundKeysWf hs h
  exact ⟨by simp [hbusy], fun _ => hdone, hcode, by simp [hbusy], hwf, hle, hwritten⟩

theorem State.Inv.of_coreKept {s t : State} (hs : s.Inv) (h : s.CoreKept t) : t.Inv := by
  obtain ⟨⟨hbusy, hdone, herr⟩, hcmd, hlat, -, hmem, hcount⟩ := h
  constructor
  · rw [hbusy, hdone, herr]; exact hs.busy_clear
  · rw [hdone, herr]; exact hs.err_done
  · rw [herr]; exact hs.err_code
  · rw [hbusy, hlat, hcmd]; exact hs.busy_cmd
  · rw [hmem]; exact hs.rkmem_wf
  · rw [hcount]; exact hs.rkCount_le
  · rw [hmem, hcount]; exact hs.rkCount_written

theorem State.Inv.accept {s : State} (hs : RoundKeysWf s.rkmem s.rkCount) (v : Word) : (s.accept v).Inv :=
  ⟨fun _ => ⟨rfl, rfl⟩, fun h => absurd rfl h, .inl rfl, fun _ => rfl, hs.wf, hs.le, hs.written⟩

/-- Settles O31: STATUS and RK_COUNT are 0 after reset, and RKMEM is empty. -/
theorem invariantHoldsAfterReset : Obligations.InvariantHoldsAfterReset where
  busy_clear _ := ⟨rfl, rfl⟩
  err_done h := absurd rfl h
  err_code := .inl rfl
  busy_cmd _ := rfl
  rkmem_wf := Memory.wf_nil
  rkCount_le := Nat.zero_le 192
  rkCount_written _ h := absurd h (Nat.not_lt_zero _)

theorem State.Inv.resetCore (s : State) : s.resetCore.Inv :=
  invariantHoldsAfterReset.of_coreKept ⟨⟨rfl, rfl, rfl⟩, rfl, rfl, rfl, rfl, rfl⟩

/-- Settles O32: the completion step and acceptance set STATUS as the invariant asks, a KS command writes the words that it
counts, and every other step but reset keeps what the invariant speaks of. -/
theorem everyStepKeepsTheInvariant : Obligations.EveryStepKeepsTheInvariant := by
  intro s t hs h
  rcases step_core_cases h with ⟨-, -, hc⟩ | hkept | ⟨v, es, -, -, rfl⟩ | ⟨es, -, rfl⟩
  · exact .of_completeStep (s := s.popEvent) hs.roundKeys hc
  · exact hs.of_coreKept hkept
  · exact .accept (s := s.popEvent) hs.roundKeys v
  · exact .resetCore _

/-! ## STATUS -/

/-- Settles O10: of the three fields shifted into the word, at most one has a bit at each position. -/
theorem statusWordLayout : Obligations.StatusWordLayout := by
  intro s n
  simp only [State.statusWord, BitVec.getLsbD_or, BitVec.getLsbD_shiftLeft, BitVec.getLsbD_setWidth,
    BitVec.getLsbD_ofBool]
  split_ifs with hbusy hdone herr
  · simp [hbusy]
  · simp [hdone]
  · have hn : n < 32 ∧ ¬n < 4 ∧ n - 4 < 32 ∧ n - 1 ≠ 0 := by omega
    simp [hn, hbusy]
  · have hn : n - 1 ≠ 0 := by omega
    have herr : n < 4 ∨ s.err.getLsbD (n - 4) = false :=
      (Nat.lt_or_ge n 4).imp_right fun _ => BitVec.getLsbD_of_ge _ _ (by omega)
    rcases herr with herr | herr <;> simp [herr, hn, hbusy]

/-- Settles O11: the register map has STATUS among the registers that ignore writes; and the completion step of a state that
meets the invariant clears nothing, since ERR was 0 and DONE becomes 1. -/
theorem statusIsReadOnlyAndClearedOnlyByCommandOrReset :
    Obligations.StatusIsReadOnlyAndClearedOnlyByCommandOrReset := by
  refine ⟨fun s n hn => ?_, fun s v es hin => ?_, fun s t hs h hclear => ?_⟩
  · rw [statusWordLayout s n, if_neg (by omega), if_neg (by omega), if_neg (by omega)]
  · exact step_scriptWrite (r := .status) hin
  · rcases step_core_cases h with ⟨-, hb, hc⟩ | hkept | ⟨v, es, hin, hb, -⟩ | ⟨es, hin, -⟩
    · have herr : s.err = 0 := (hs.busy_clear hb).2
      have hdone : t.done = true := (completeStep_status hc).2.1
      simp [herr, hdone] at hclear
    · obtain ⟨-, hdone, herr⟩ := hkept.status
      rw [hdone, herr] at hclear
      rcases hclear with ⟨h1, h0⟩ | ⟨h1, h0⟩
      · simp [h1] at h0
      · exact absurd h0 h1
    · exact ⟨es, .inl ⟨hb, v, hin⟩⟩
    · exact ⟨es, .inr hin⟩

/-- Settles O22: acceptance alone sets BUSY, the completion step of a command in progress alone sets DONE or an error code, and
only it and reset clear BUSY. -/
theorem busyFromAcceptanceToCompletion : Obligations.BusyFromAcceptanceToCompletion := by
  refine ⟨fun s t h => ?_, fun s es hidle hin => ?_⟩
  · rcases step_core_cases h with ⟨hdue, hb, hc⟩ | hkept | ⟨v, es, hin, hb, rfl⟩ | ⟨es, hin, rfl⟩
    · have hidle : t.busy = false := (completeStep_status hc).1
      have hevent : s.inputs = [] ∨ ∃ es, s.inputs = .complete :: es ∨ s.inputs = .reset :: es :=
        hdue.imp_right fun ⟨es, hin⟩ => ⟨es, .inl hin⟩
      exact ⟨by simp [hb], fun _ _ => hevent, by simp [hidle], fun _ => ⟨hb, hdue⟩⟩
    · obtain ⟨hbusy, hdone, herr⟩ := hkept.status
      refine ⟨by simp +contextual [hbusy], by simp +contextual [hbusy],
        fun _ _ => ⟨hkept.lat, hkept.cmd, hdone, herr⟩, ?_⟩
      rw [hdone, herr]
      rintro (⟨h0, h1⟩ | ⟨hne, -⟩)
      · simp [h0] at h1
      · exact absurd rfl hne
    · exact ⟨fun _ _ => ⟨v, es, hin⟩, by simp, by simp [hb], by simp⟩
    · exact ⟨by simp [State.reset], fun _ _ => .inr ⟨es, .inr hin⟩, by simp [State.reset], by simp [State.reset]⟩
  · rw [step_cons hin]
    exact completeIfBusy_of_idle hidle

/-! ## Outputs and operands -/

/-- Settles O23: of the outcomes of the completion step, only a successful ENC, DEC or FRB writes OUTREG and only a successful
KS the round keys; no other step but reset touches either. -/
theorem onlySuccessfulCompletionsChangeOutputs : Obligations.OnlySuccessfulCompletionsChangeOutputs := by
  intro s t h hreset
  rcases step_core_cases h with ⟨hdue, hb, hc⟩ | hkept | ⟨v, es, -, -, rfl⟩ | ⟨es, hin, -⟩
  · rcases completeStep_outcome hc with ⟨e, -, rfl⟩ | ⟨i, W, R, hv, hd, hop, -, rfl⟩ | ⟨i, hv, hd, hop, rfl⟩
    · simp
    · exact ⟨fun _ => ⟨hdue, hb, hv, i, hd, hop⟩, by simp⟩
    · exact ⟨by simp, fun _ => ⟨hdue, hb, hv, i, hd, hop⟩⟩
  · have hout : t.blkOut = s.blkOut := hkept.out
    simp [hout, hkept.rkmem, hkept.rkCount]
  · simp
  · exact absurd hin (hreset es)

/-- Settles O24: the completion step keeps the operands, and of the events only a write to the register changes it. -/
theorem onlyTheHostChangesOperands : Obligations.OnlyTheHostChangesOperands := by
  intro s t h hreset
  rcases step_event_cases h with ⟨-, hc⟩ | ⟨off, es, -, -, rfl⟩ | ⟨off, v, es, hin, h4, rfl⟩ | ⟨es, hin, -⟩
  · have hkept : t.key = s.key ∧ t.blkIn = s.blkIn := by
      rcases completeIfBusy_cases hc with ⟨-, hc⟩ | ⟨-, rfl⟩
      · obtain ⟨-, -, -, hkey, hblk, -⟩ := completeStep_inputsKept hc
        exact ⟨hkey, hblk⟩
      · exact ⟨rfl, rfl⟩
    simp [hkept.1, hkept.2]
  · simp
  · constructor <;> intro j hne
    · have hr : regAt off = .key j := by_contra fun hr => hne (writeReg_key_of_ne hr s.popEvent v)
      obtain rfl := offset_of_regAt h4 hr (by simp)
      exact ⟨v, es, hin, by rw [hr, writeReg_key_same]⟩
    · have hr : regAt off = .blkIn j := by_contra fun hr => hne (writeReg_blkIn_of_ne hr s.popEvent v)
      obtain rfl := offset_of_regAt h4 hr (by simp)
      exact ⟨v, es, hin, by rw [hr, writeReg_blkIn_same]⟩
  · exact absurd hin (hreset es)

/-- The pending events do not matter to a register read. -/
theorem readReg_inputs (s : State) (r : Reg) (es : List Event) :
    ({ s with inputs := es } : State).readReg r = s.readReg r := by
  cases r <;> rfl

/-- A script write of an input register reads back as `x`, when the write leaves `x` there, and keeps every other register's
read. -/
theorem step_operandWrite {s : State} {r : Reg} {v x : Word} {es : List Event} (hop : r.isOperand = true)
    (hin : s.inputs = scriptWrite r v :: es) (hx : (s.writeReg r v).readReg r = some x) :
    ∃ t, step s = .next t ∧ t = { s.writeReg r v with inputs := es } ∧ t.readReg r = some x ∧
      ∀ r', r' ≠ r → t.readReg r' = s.readReg r' :=
  ⟨_, step_scriptWrite hin, rfl, (readReg_inputs _ r es).trans hx,
    fun r' hne => (readReg_inputs _ r' es).trans (readReg_writeReg_of_ne hop hne s v)⟩

/-- Settles O13: KEY and BLK_IN are input registers, and a read of one gives the word just written. -/
theorem operandWriteReadsBackAndTouchesNothingElse : Obligations.OperandWriteReadsBackAndTouchesNothingElse := by
  refine fun s v es => ⟨fun j hin => ?_, fun j hin => ?_⟩
  · exact step_operandWrite (r := .key j) rfl hin (congrArg DataWord.known (writeReg_key_same s j v))
  · exact step_operandWrite (r := .blkIn j) rfl hin (congrArg DataWord.known (writeReg_blkIn_same s j v))

/-! ## The bus accesses to the other registers -/

/-- Settles O5: the named registers by their indexes, and a reserved offset by lying in none of the four ranges. -/
theorem registerMapOfTheWindow : Obligations.RegisterMapOfTheWindow :=
  ⟨rfl, rfl, rfl, rfl, rfl, regAt_key, regAt_blkIn, regAt_blkOut, regAt_rkmem, fun _ h => regAt_reserved h⟩

/-- Settles O6: an aligned offset below 0x1000 is a defined access, and it leads to the reserved register. -/
theorem reservedOffsetsReadZeroAndIgnoreWrites : Obligations.ReservedOffsetsReadZeroAndIgnoreWrites := by
  intro s off v es h4 hoff
  have hwf : accessWf .bits32 off = true := accessWf_of (by omega) h4
  constructor <;> intro hin <;> rw [step_cons hin, perform]
  · rw [busRead_wf hwf, regAt_reserved hoff]
    rfl
  · rw [busWrite_wf v hwf, regAt_reserved hoff]
    rfl

/-- Settles O12: the low half is stored, and reads back zero-extended. -/
theorem lengthWritesKeepLowHalf : Obligations.LengthWritesKeepLowHalf := by
  intro s v es
  have hlow : v.setWidth 16 = v.extractLsb' 0 16 := BitVec.setWidth_eq_extractLsb' (by omega)
  have hextend : (v.extractLsb' 0 16).setWidth 32 = 0#16 ++ v.extractLsb' 0 16 :=
    BitVec.setWidth_eq_append (by omega)
  constructor <;> intro hin
  · rw [step_scriptWrite (r := .keyLen) hin, State.writeReg, hlow, ← hextend]
    exact ⟨_, rfl, rfl, rfl⟩
  · rw [step_scriptWrite (r := .blkLen) hin, State.writeReg, hlow, ← hextend]
    exact ⟨_, rfl, rfl, rfl⟩

/-- Settles O14: the script write of a register that stores nothing. -/
theorem outputRegistersIgnoreWrites : Obligations.OutputRegistersIgnoreWrites := by
  rintro s r v es hr hin
  rw [step_scriptWrite hin]
  rcases hr with rfl | ⟨j, rfl⟩ | ⟨i, rfl⟩ <;> rfl

/-! ## The engine state (R41, R42) -/

/-- The same state with other contents of the engine. -/
@[simps] def State.withEngine (s : State) (e : Engine) : State := { s with engine := e }

/-- Two outcomes that differ at most in the engine state of the next state. -/
inductive SameButEngine : Result → Result → Prop where
  | next (t : State) (e : Engine) : SameButEngine (.next t) (.next (t.withEngine e))
  | fault (f : Fault) : SameButEngine (.fault f) (.fault f)
  | refused (r : Refusal) : SameButEngine (.refused r) (.refused r)

section
variable (s : State) (e : Engine)

theorem readReg_withEngine (r : Reg) : (s.withEngine e).readReg r = s.readReg r := by
  cases r <;> rfl

theorem reply_withEngine (v : Option Word) : (s.withEngine e).reply v = (s.reply v).withEngine e := by
  cases v <;> rfl

theorem writeReg_withEngine (r : Reg) (v : Word) : (s.withEngine e).writeReg r v = (s.writeReg r v).withEngine e := by
  cases r with
  | cmd => simp only [State.writeReg, State.withEngine_busy]; split <;> rfl
  | _ => rfl

theorem executeOf_withEngine (i : Instr) : executeOf i (s.withEngine e) = (executeOf i s).withEngine e := by
  unfold executeOf
  rw [State.withEngine_lat]
  split <;> rfl

theorem busRead_sameButEngine (size : AccessSize) (off : Nat) :
    SameButEngine (s.busRead size off) ((s.withEngine e).busRead size off) := by
  unfold State.busRead
  split_ifs
  · exact .fault _
  · rw [readReg_withEngine, reply_withEngine]
    exact .next _ e
  · exact .refused _

theorem busWrite_sameButEngine (size : AccessSize) (off : Nat) (v : Word) :
    SameButEngine (s.busWrite size off v) ((s.withEngine e).busWrite size off v) := by
  unfold State.busWrite
  split_ifs
  · exact .fault _
  · rw [writeReg_withEngine]
    exact .next _ e
  · exact .refused _

/-- A failed command keeps the engine state, a successful one overwrites it. -/
theorem exec_sameButEngine (i : Instr) : SameButEngine (exec i s) (exec i (s.withEngine e)) := by
  rw [exec_eq, exec_eq]
  cases hv : validateLengths i s.lat with
  | some k =>
    rw [completeCommand_error hv, completeCommand_error (s := s.withEngine e) hv]
    exact .next _ e
  | none =>
    rw [completeCommand_ok hv, completeCommand_ok (s := s.withEngine e) hv, executeOf_withEngine]
    exact .next (executeOf i s).succeed (executeOf i s).succeed.engine

theorem completeIfBusy_sameButEngine : SameButEngine (completeIfBusy s) (completeIfBusy (s.withEngine e)) := by
  cases hb : s.busy with
  | false =>
    rw [completeIfBusy_of_idle hb, completeIfBusy_of_idle (s := s.withEngine e) hb]
    exact .next _ e
  | true =>
    rw [completeIfBusy_of_busy hb, completeIfBusy_of_busy (s := s.withEngine e) hb]
    unfold completeStep
    rw [State.withEngine_lat]
    split
    · exact exec_sameButEngine s e _
    · exact .next _ e

theorem perform_sameButEngine (ev : Event) : SameButEngine (perform ev s) (perform ev (s.withEngine e)) := by
  cases ev with
  | read size off => exact busRead_sameButEngine s e size off
  | write size off v => exact busWrite_sameButEngine s e size off v
  | complete => exact completeIfBusy_sameButEngine s e
  | reset => exact .next s.resetCore Engine.reset

theorem step_sameButEngine : SameButEngine (step s) (step (s.withEngine e)) := by
  cases hin : s.inputs with
  | nil =>
    rw [step_nil hin, step_nil (s := s.withEngine e) hin]
    exact completeIfBusy_sameButEngine s e
  | cons ev es =>
    rw [step_cons hin, step_cons (s := s.withEngine e) hin]
    exact perform_sameButEngine { s with inputs := es } e ev

end

/-- Settles O27: each event has the same outcome but for the engine state, and so has the step. -/
theorem nothingReadsTheEngineState : Obligations.NothingReadsTheEngineState := by
  intro s e
  have hsame := step_sameButEngine s e
  rw [State.withEngine] at hsame
  generalize step { s with engine := e } = r' at hsame ⊢
  generalize step s = r at hsame
  cases hsame with
  | next t e' => simp [State.withEngine]
  | fault f => simp
  | refused r => simp

end Sys2Proof.Machine
end

section
/-! The bounds of the register window, which accesses in it are defined, and what a read adds to the state (20_memory.md). -/

namespace Sys2Proof.Machine

/-! ## The window (R60) -/

/-- R60, R62: an offset below the window's size is the offset of the address it stands for. -/
theorem busOffset_busAddress (base : Nat) {off : Nat} (h : off < Config.windowBytes) :
    busOffset base (busAddress base off) = some off := by
  have hin : base ≤ base + off ∧ base + off < base + Config.windowBytes := by omega
  rw [busAddress, busOffset, if_pos hin, Nat.add_sub_cancel_left]

/-- R60: exactly the addresses below the base and those past the window's end have no offset. -/
theorem busOffset_eq_none_iff {base addr : Nat} :
    busOffset base addr = none ↔ addr < base ∨ base + Config.windowBytes ≤ addr := by
  rw [busOffset, ite_eq_right_iff]
  simp only [reduceCtorEq, imp_false]
  omega

section
variable {off : Nat} (s : State) (size : AccessSize) (v : Word)

/-- Log entry 9: the window is checked before the width and the alignment. -/
theorem busRead_outside (h : Config.windowBytes ≤ off) : s.busRead size off = .fault .outsideWindow := if_pos h

theorem busWrite_outside (h : Config.windowBytes ≤ off) : s.busWrite size off v = .fault .outsideWindow := if_pos h

end

/-- Settles O4: the offset map inside and outside the window, and both accesses check the window first. -/
theorem windowAndWhatLiesOutsideIt : Obligations.WindowAndWhatLiesOutsideIt := by
  refine ⟨fun base => ⟨fun off hoff => ?_, fun addr haddr => ?_⟩, fun s size off v hoff => ⟨?_, ?_⟩⟩
  · exact busOffset_busAddress base hoff
  · exact busOffset_eq_none_iff.mpr haddr
  · exact busRead_outside s size hoff
  · exact busWrite_outside s size v hoff

/-! ## Defined and undefined accesses in the window (R61) -/

section
variable {size : AccessSize} {off : Nat} (hoff : off < Config.windowBytes) (h : size ≠ .bits32 ∨ off % 4 ≠ 0) (s : State)
include h

/-- R61: another width, or an offset that is no multiple of 4, makes an access undefined. -/
theorem accessWf_eq_false : accessWf size off = false := by
  rw [Bool.eq_false_iff]
  intro hwf
  obtain ⟨hsize, h4⟩ := size_and_align_of_accessWf hwf
  exact h.elim (· hsize) (· h4)

include hoff

theorem busRead_undefined : s.busRead size off = .refused .undefinedAccess := by
  rw [State.busRead, if_neg (Nat.not_le.mpr hoff), accessWf_eq_false h, if_neg Bool.false_ne_true]

theorem busWrite_undefined (v : Word) : s.busWrite size off v = .refused .undefinedAccess := by
  rw [State.busWrite, if_neg (Nat.not_le.mpr hoff), accessWf_eq_false h, if_neg Bool.false_ne_true]

end

/-- Settles O7: in the window an access is refused when it is undefined, and otherwise replies or writes a register. -/
theorem onlyAlignedWordAccessesAreAdmitted : Obligations.OnlyAlignedWordAccessesAreAdmitted := by
  refine fun s size off v hoff => ⟨fun hundef => ?_, ?_⟩
  · exact ⟨busRead_undefined hoff hundef s, busWrite_undefined hoff hundef s v⟩
  · rintro ⟨rfl, h4⟩
    have hwf : accessWf .bits32 off = true := accessWf_of hoff h4
    exact ⟨⟨_, busRead_wf hwf⟩, ⟨_, busWrite_wf v hwf⟩⟩

/-! ## What a read changes (R65) -/

/-- R36, R65: a reply adds one value to the host's record, be it a register's or a draw. -/
theorem reply_replies (s : State) (x : Option Word) : ∃ v, (s.reply x).replies = v :: s.replies := by
  cases x with
  | some v => exact ⟨v, State.reply_some_replies s v⟩
  | none => exact ⟨Config.draw s.draws, State.reply_none_replies s⟩

/-- Settles O8: a read that answers a next state is a reply, which touches no field of the core. -/
theorem busReadHasNoSideEffect : Obligations.BusReadHasNoSideEffect := by
  intro s t size off h
  obtain ⟨-, rfl⟩ := busRead_cases h
  have hrecord := reply_replies s (s.readReg (regAt off))
  simpa [State.inputsKept, State.statusKept, State.outKept] using hrecord

end Sys2Proof.Machine
end

section
/-! The command word and its decoder (30_encoding.md section 1, R80 to R84 and R90). -/

namespace Sys2Proof

/-! ## The fields of a command word -/

/-- R80: the three fields cover the word. -/
theorem wordOf_fieldsOf (c : Word) : wordOf (fieldsOf c) = c := by
  have hhigh : c.extractLsb' 8 24 ++ c.extractLsb' 4 4 = c.extractLsb' 4 28 :=
    BitVec.extractLsb'_append_extractLsb'_eq_extractLsb' rfl
  have hall : c.extractLsb' 4 28 ++ c.extractLsb' 0 4 = c.extractLsb' 0 32 :=
    BitVec.extractLsb'_append_extractLsb'_eq_extractLsb' rfl
  rw [wordOf, fieldsOf, hhigh, hall, BitVec.extractLsb'_eq_self]

/-- R81 to R83: the fields of a command's word. -/
def Instr.fields (i : Instr) : CmdFields := { rsvd := 0, ciph := i.ciphField, op := i.opField }

theorem wordOf_fields (i : Instr) : wordOf i.fields = encode i := by
  cases i <;> rfl

theorem fieldsOf_encode (i : Instr) : fieldsOf (encode i) = i.fields := by
  cases i <;> rfl

theorem fieldsOf_eq_fields_iff {c : Word} {i : Instr} : fieldsOf c = i.fields ↔ c = encode i := by
  constructor
  · intro h
    rw [← wordOf_fieldsOf c, h, wordOf_fields]
  · rintro rfl
    exact fieldsOf_encode i

/-! ## The decoder -/

/-- R83: each row of the command map stands at its command's CIPH and OP. -/
theorem decodeRow_eq_ok_iff {ciph op : Nat} {i : Instr} :
    decodeRow ciph op = .ok i ↔ ciph = i.ciphField.toNat ∧ op = i.opField.toNat := by
  constructor
  · intro h
    unfold decodeRow at h
    split at h <;> cases h <;> exact ⟨rfl, rfl⟩
  · rintro ⟨rfl, rfl⟩
    cases i <;> rfl

/-- R84: CIPH and OP select a row of the command map exactly when they are in range and FRB is asked of AES alone. -/
theorem exists_decodeRow_eq_ok_iff {ciph op : Nat} :
    (∃ i, decodeRow ciph op = .ok i) ↔ (1 ≤ op ∧ op ≤ 4) ∧ (1 ≤ ciph ∧ ciph ≤ 4) ∧ (op = 4 → ciph = 1) := by
  constructor
  · rintro ⟨i, h⟩
    obtain ⟨rfl, rfl⟩ := decodeRow_eq_ok_iff.mp h
    cases i <;> decide
  · rintro ⟨hop, hciph, hfrb⟩
    have hrow : (op = 1 ∨ op = 2 ∨ op = 3) ∨ op = 4 := by omega
    have hcipher : ciph = 1 ∨ ciph = 2 ∨ ciph = 3 ∨ ciph = 4 := by omega
    rcases hrow with (rfl | rfl | rfl) | rfl
    iterate 3 rcases hcipher with rfl | rfl | rfl | rfl <;> exact ⟨_, rfl⟩
    obtain rfl := hfrb rfl
    exact ⟨.aesFrb, rfl⟩

/-- R90: a word decodes to a command exactly when its reserved bits are 0 and its CIPH and OP select the command's row. -/
theorem decode_eq_ok_iff {c : Word} {i : Instr} :
    decode c = .ok i ↔
      (fieldsOf c).rsvd = 0 ∧ decodeRow (fieldsOf c).ciph.toNat (fieldsOf c).op.toNat = .ok i := by
  by_cases hrsvd : (fieldsOf c).rsvd = 0
  · rw [decode, if_neg (not_not.mpr hrsvd), and_iff_right hrsvd]
  · simp only [decode, if_pos hrsvd, reduceCtorEq, hrsvd, false_and]

theorem decode_eq_ok_iff_fields {c : Word} {i : Instr} : decode c = .ok i ↔ fieldsOf c = i.fields := by
  rw [decode_eq_ok_iff, decodeRow_eq_ok_iff, BitVec.toNat_inj, BitVec.toNat_inj, Instr.fields]
  cases fieldsOf c
  rw [CmdFields.mk.injEq]

/-- Settles O2: the decoder reads the command's fields, and the fields are the word. -/
theorem wordDecodesExactlyToTheCommandItEncodes : Obligations.WordDecodesExactlyToTheCommandItEncodes :=
  fun _ _ => decode_eq_ok_iff_fields.trans fieldsOf_eq_fields_iff

theorem decode_encode (i : Instr) : decode (encode i) = .ok i :=
  (wordDecodesExactlyToTheCommandItEncodes (encode i) i).mpr rfl

/-- Settles O1: each number is the word `(CIPH << 4) | OP` of its command. -/
theorem commandWordsDecodeToTheirCommands : Obligations.CommandWordsDecodeToTheirCommands :=
  ⟨decode_encode .aesEnc, decode_encode .aesDec, decode_encode .aesKs, decode_encode .aesFrb,
   decode_encode .presentEnc, decode_encode .presentDec, decode_encode .presentKs,
   decode_encode .leaEnc, decode_encode .leaDec, decode_encode .leaKs,
   decode_encode .piccoloEnc, decode_encode .piccoloDec, decode_encode .piccoloKs⟩

/-- A word that decodes to no command is rejected for a reason. -/
theorem exists_decode_eq_error {c : Word} (h : ¬∃ i, decode c = .ok i) : ∃ e, decode c = .error e := by
  cases hd : decode c with
  | ok i => exact absurd ⟨i, hd⟩ h
  | error e => exact ⟨e, rfl⟩

end Sys2Proof

namespace Sys2Proof.Machine

/-! ## What becomes of an illegal word -/

/-- R270: a CMD write while BUSY = 0 is accepted, whatever the word. -/
theorem step_accept {s : State} {c : Word} {es : List Event} (hidle : s.busy = false)
    (hin : s.inputs = .write .bits32 0x000 c :: es) : step s = .next { s.accept c with inputs := es } := by
  have haccept : s.writeReg .cmd c = s.accept c := if_neg (by simp [hidle])
  rw [step_scriptWrite (r := .cmd) hin, haccept]

/-- R291: the completion step of an illegal word. -/
theorem completeStep_of_error {s : State} {e : Illegal} (h : decode s.lat.cmd = .error e) :
    completeStep s = .next (s.raiseError .invalidCommand) := by
  rw [completeStep, h]

theorem step_complete {s : State} {es : List Event} (hbusy : s.busy = true) (hin : s.inputs = .complete :: es) :
    step s = completeStep { s with inputs := es } := by
  rw [step_cons hin, perform]
  exact completeIfBusy_of_busy (s := { s with inputs := es }) hbusy

/-- Settles O3: validity is `exists_decodeRow_eq_ok_iff` on the word's fields; an illegal word is accepted like any
other, and the completion step decodes it from the snapshot. -/
theorem validWordsAndTheFateOfIllegalOnes : Obligations.ValidWordsAndTheFateOfIllegalOnes := by
  refine fun c => ⟨?_, fun s es hidle hillegal hin => ?_⟩
  · simp only [decode_eq_ok_iff, exists_and_left, exists_decodeRow_eq_ok_iff, fieldsOf]
  · obtain ⟨e, hd⟩ := exists_decode_eq_error hillegal
    have hcomplete := (step_complete (s := { s.accept c with inputs := .complete :: es }) rfl rfl).trans
      (completeStep_of_error hd)
    exact ⟨_, _, step_accept hidle hin, rfl, rfl, rfl, hcomplete, rfl, rfl, rfl⟩

end Sys2Proof.Machine
end

section
/-! The operands are cut out of the latched registers (R85, R86). -/

namespace Sys2Proof.Machine

section
variable (w : Word) (ws : List Word)

theorem firstBits_of_le {L : Nat} (h : L ≤ 32) : firstBits (w :: ws) L = w.toNat >>> (32 - L) := if_pos h

theorem firstBits_zero : firstBits ws 0 = 0 := by
  cases ws with
  | nil => rfl
  | cons w ws => rw [firstBits_of_le w ws (Nat.zero_le 32), Nat.shiftRight_eq_zero _ _ w.isLt]

/-- The whole first word stands before the bits taken from the words after it. -/
theorem firstBits_add (n : Nat) : firstBits (w :: ws) (32 + n) = w.toNat <<< n ||| firstBits ws n := by
  cases n with
  | zero => rw [firstBits_zero, Nat.or_zero]; rfl
  | succ n => rw [firstBits, if_neg (by omega), Nat.add_sub_cancel_left]

theorem firstBits_length_cons :
    firstBits (w :: ws) (32 * (w :: ws).length) = w.toNat <<< (32 * ws.length) ||| firstBits ws (32 * ws.length) := by
  rw [List.length_cons, Nat.mul_succ, Nat.add_comm, firstBits_add]

/-- The bits of all the words are no more than 32 a word. -/
theorem firstBits_length_lt : firstBits ws (32 * ws.length) < 2 ^ (32 * ws.length) := by
  induction ws with
  | nil => exact Nat.one_pos
  | cons w ws ih =>
    rw [firstBits_length_cons, List.length_cons, Nat.mul_succ, Nat.add_comm]
    have hfirst : w.toNat <<< (32 * ws.length) < 2 ^ (32 + 32 * ws.length) := Nat.shiftLeft_lt w.isLt
    have hrest : firstBits ws (32 * ws.length) < 2 ^ (32 + 32 * ws.length) :=
      ih.trans_le (Nat.pow_le_pow_right Nat.two_pos (Nat.le_add_left _ _))
    exact Nat.or_lt_two_pow hfirst hrest

end

/-- The first `L` bits are what remains of the bits of all the words when those after them are shifted out. -/
theorem firstBits_eq_shiftRight {ws : List Word} {L : Nat} (h : L ≤ 32 * ws.length) :
    firstBits ws L = firstBits ws (32 * ws.length) >>> (32 * ws.length - L) := by
  induction ws generalizing L with
  | nil => simp [firstBits]
  | cons w ws ih =>
    rw [firstBits_length_cons, Nat.shiftRight_or_distrib]
    rw [List.length_cons, Nat.mul_succ] at h ⊢
    rcases Nat.le_total L 32 with hL | hL
    · have hshift : 32 * ws.length + 32 - L = 32 * ws.length + (32 - L) := by omega
      rw [firstBits_of_le w ws hL, hshift, Nat.shiftRight_add, Nat.shiftRight_add, Nat.shiftLeft_shiftRight,
        Nat.shiftRight_eq_zero _ _ (firstBits_length_lt ws), Nat.zero_shiftRight, Nat.or_zero]
    · obtain ⟨n, rfl⟩ := Nat.exists_eq_add_of_le hL
      have hn : n ≤ 32 * ws.length := by omega
      have hshift : 32 * ws.length + 32 - (32 + n) = 32 * ws.length - n := by omega
      have hhigh : w.toNat <<< (32 * ws.length) >>> (32 * ws.length - n) = w.toNat <<< n := by
        rw [← Nat.shiftLeft_sub _ (Nat.sub_le _ _), Nat.sub_sub_self hn]
      rw [firstBits_add, ih hn, hshift, hhigh]

/-- The words of a register joined, the first most significant (R29, R33). -/
theorem toNat_append_eight (a b c d e f g k : Word) :
    (a ++ b ++ c ++ d ++ e ++ f ++ g ++ k).toNat = firstBits [a, b, c, d, e, f, g, k] 256 := by
  simp only [BitVec.toNat_append]
  simp [firstBits, Nat.shiftLeft_or_distrib, ← Nat.shiftLeft_add, Nat.or_assoc]

/-- The same for four words (R30, R33). -/
theorem toNat_append_four (a b c d : Word) : (a ++ b ++ c ++ d).toNat = firstBits [a, b, c, d] 128 := by
  simp only [BitVec.toNat_append]
  simp [firstBits, Nat.shiftLeft_or_distrib, ← Nat.shiftLeft_add, Nat.or_assoc]

theorem toList_eq_ofFn {α : Type} {n : Nat} (v : Vector α n) : v.toList = List.ofFn fun i : Fin n => v[i.val] := by
  rw [← Vector.toList_ofFn, Vector.ofFn_getElem]

theorem firstBits_toList {n L : Nat} (v : Vector Word n) (h : L ≤ 32 * n) :
    firstBits v.toList L = firstBits v.toList (32 * n) >>> (32 * n - L) := by
  have hbits := firstBits_eq_shiftRight (ws := v.toList) (L := L)
  rw [Vector.length_toList] at hbits
  exact hbits h

section
variable (lat : Latch)

theorem firstBits_key : firstBits lat.key.toList (32 * 8) = lat.keyReg.toNat := by
  rw [toList_eq_ofFn]
  exact (toNat_append_eight ..).symm

theorem firstBits_blk : firstBits lat.blk.toList (32 * 4) = lat.blkReg.toNat := by
  rw [toList_eq_ofFn]
  exact (toNat_append_four ..).symm

/-- R85: the bits of the key register after the first `L` are not looked at. -/
theorem keyOperand_eq_extractLsb' {L : Nat} (h : L ≤ 256) : keyOperand L lat = lat.keyReg.extractLsb' (256 - L) L := by
  rw [keyOperand, firstBits_toList lat.key h, firstBits_key, BitVec.extractLsb']

/-- R86: likewise of the block register. -/
theorem blkOperand_eq_extractLsb' {W : Nat} (h : W ≤ 128) : blkOperand W lat = lat.blkReg.extractLsb' (128 - W) W := by
  rw [blkOperand, firstBits_toList lat.blk h, firstBits_blk, BitVec.extractLsb']

end

/-- Settles O33: both operands are what `firstBits_eq_shiftRight` leaves of the joined words. -/
theorem operandsAreTheFirstBitsOfTheRegisters : Obligations.OperandsAreTheFirstBitsOfTheRegisters :=
  fun lat => ⟨fun _ _ h => keyOperand_eq_extractLsb' lat h, fun _ _ h => blkOperand_eq_extractLsb' lat h⟩

end Sys2Proof.Machine
end

section
/-! The shared primitives of 40_primitives.md: rotations bit by bit, `gmul8` by constants, and bit sequences. -/

namespace Sys2Proof.Machine

/-! ## Rotations (R100 to R102) -/

section
variable {w i : Nat}

/-- R100: a bit below the amount comes round from the top. -/
theorem getLsbD_rol (x : BitVec w) (n : Nat) (hi : i < w) :
    (rol x n).getLsbD i = x.getLsbD ((i + w - n % w) % w) := by
  have hm : n % w < w := Nat.mod_lt n (Nat.zero_lt_of_lt hi)
  rw [rol_eq_rotateLeft, BitVec.getLsbD_rotateLeft, Bool.cond_decide]
  split
  · rw [Nat.mod_eq_of_lt (by omega : i + w - n % w < w), show w - n % w + i = i + w - n % w by omega]
  · rw [show i + w - n % w = i - n % w + w by omega, Nat.add_mod_right,
      Nat.mod_eq_of_lt (by omega : i - n % w < w), decide_eq_true hi, Bool.true_and]

/-- The complementary amount that R101 rotates left by takes bit `i` from `n` places above it. -/
theorem add_sub_complement_mod (n : Nat) (hi : i < w) : (i + w - (w - n % w) % w % w) % w = (i + n) % w := by
  have hm : n % w < w := Nat.mod_lt n (Nat.zero_lt_of_lt hi)
  rw [Nat.mod_mod, ← Nat.add_mod_mod i n w]
  rcases Nat.eq_zero_or_pos (n % w) with h0 | hpos
  · simp [h0]
  · rw [Nat.mod_eq_of_lt (by omega : w - n % w < w), show i + w - (w - n % w) = i + n % w by omega]

/-- R101. -/
theorem getLsbD_ror (x : BitVec w) (n : Nat) (hi : i < w) : (ror x n).getLsbD i = x.getLsbD ((i + n) % w) := by
  rw [ror, getLsbD_rol x _ hi, add_sub_complement_mod n hi]

/-- R102. The amount `w` is apart from the others: it rotates left by 0. -/
theorem rol_eq_ror_sub {n : Nat} (x : BitVec w) (hn : n ≤ w) : rol x n = ror x (w - n) := by
  apply BitVec.eq_of_getLsbD_eq
  intro i hi
  rw [getLsbD_rol x n hi, getLsbD_ror x (w - n) hi]
  congr 1
  rcases hn.lt_or_eq with hlt | rfl
  · rw [Nat.mod_eq_of_lt hlt, Nat.add_sub_assoc hn]
  · simp

end

/-! ## Addition and subtraction (R103, R104) -/

theorem toNat_add32 (a b : Word) : (add32 a b).toNat = (a.toNat + b.toNat) % 2 ^ 32 := BitVec.toNat_add a b

theorem toNat_sub32 (a b : Word) : (sub32 a b).toNat = (a.toNat + 2 ^ 32 - b.toNat) % 2 ^ 32 := by
  have hb := b.isLt
  rw [sub32, BitVec.toNat_sub, show 2 ^ 32 - b.toNat + a.toNat = a.toNat + 2 ^ 32 - b.toNat by omega]

/-- Settles O47: both rotations bit by bit, the wrapping sum and difference, and the earlier law that they undo each other. -/
theorem rotationAndModularArithmetic : Obligations.RotationAndModularArithmetic :=
  ⟨fun _ n _ x hi => ⟨getLsbD_rol x n hi, getLsbD_ror x n hi⟩, fun _ _ x hn => rol_eq_ror_sub x hn,
    fun a b => ⟨toNat_add32 a b, toNat_sub32 a b, sub32_add32 a b⟩⟩

/-! ## Bit sequences (R110) -/

@[simp] theorem length_intToBits {w : Nat} (v : BitVec w) : (intToBits v).length = w := by
  simp [intToBits]

theorem getElem?_intToBits {w j : Nat} (v : BitVec w) (hj : j < w) :
    (intToBits v)[j]? = some (v.getLsbD (w - 1 - j)) := by
  simp [intToBits, hj]

/-- R110: `bits_to_int` is the library's big-endian reading of a list of bits. -/
theorem bitsToInt_eq_toNat_ofBoolListBE (bs : List Bool) : bitsToInt bs = (BitVec.ofBoolListBE bs).toNat := by
  induction bs with
  | nil => rfl
  | cons b bs ih => rw [bitsToInt, BitVec.ofBoolListBE, BitVec.toNat_cons', Nat.shiftLeft_eq, ih]

theorem intToBits_ofBoolListBE (bs : List Bool) : intToBits (BitVec.ofBoolListBE bs) = bs := by
  apply List.ext_getElem?
  intro j
  rcases Nat.lt_or_ge j bs.length with hj | hj
  · rw [getElem?_intToBits _ hj, BitVec.getLsbD_ofBoolListBE, decide_eq_true (by omega), Bool.true_and,
      show bs.length - 1 - (bs.length - 1 - j) = j by omega, List.getD_eq_getElem bs false hj,
      List.getElem?_eq_getElem hj]
  · rw [List.getElem?_eq_none hj, List.getElem?_eq_none (by simpa using hj)]

theorem intToBits_bitsToInt (bs : List Bool) : intToBits (BitVec.ofNat bs.length (bitsToInt bs)) = bs := by
  rw [bitsToInt_eq_toNat_ofBoolListBE, BitVec.ofNat_toNat, BitVec.setWidth_eq, intToBits_ofBoolListBE]

theorem bitsToInt_intToBits {w : Nat} (v : BitVec w) : bitsToInt (intToBits v) = v.toNat := by
  rw [bitsToInt_eq_toNat_ofBoolListBE]
  apply Nat.eq_of_testBit_eq
  intro i
  rw [BitVec.testBit_toNat, BitVec.testBit_toNat, BitVec.getLsbD_ofBoolListBE, length_intToBits]
  rcases Nat.lt_or_ge i w with hi | hi
  · rw [List.getD_eq_getElem?_getD, getElem?_intToBits v (by omega)]
    simp [show w - 1 - (w - 1 - i) = i by omega, hi]
  · simp [BitVec.getLsbD_of_ge v i hi, Nat.not_lt.mpr hi]

/-- Settles O49: `bits_to_int` is a big-endian reading, and both conversions agree with it bit by bit. -/
theorem bitSequenceConversions : Obligations.BitSequenceConversions :=
  ⟨fun _ v => ⟨length_intToBits v, fun _ hj => getElem?_intToBits v hj, bitsToInt_intToBits v⟩, intToBits_bitsToInt⟩

/-! ## Multiplication by constants (R106, R107) -/

/-- R107: the 9-bit intermediate's bit 8 is cut off, so reducing by 0x1B is reducing by 0x11B. -/
theorem xtime8_eq_setWidth (a : Byte) :
    xtime8 a = ((a.setWidth 9 <<< 1) ^^^ (if a.getLsbD 7 then 0x11B#9 else 0#9)).setWidth 8 := by
  rw [BitVec.setWidth_xor, BitVec.setWidth_shiftLeft_of_le (by decide), BitVec.setWidth_setWidth_of_le a (by decide),
    BitVec.setWidth_eq, apply_ite (BitVec.setWidth 8)]
  rfl

/-! The powers of x: the loop of R106 reaches the one set bit of the constant after as many doublings. -/

theorem gmul8_one (a : Byte) : gmul8 a 1 = a := by simp [gmul8, gmul8Loop]

theorem gmul8_two (a : Byte) : gmul8 a 2 = xtime8 a := by simp [gmul8, gmul8Loop]

theorem gmul8_four (a : Byte) : gmul8 a 4 = xtime8 (xtime8 a) := by simp [gmul8, gmul8Loop]

theorem gmul8_eight (a : Byte) : gmul8 a 8 = xtime8 (xtime8 (xtime8 a)) := by simp [gmul8, gmul8Loop]

/-- Settles O48: the powers of x, and the other constants as sums of them, over which `gmul8` distributes. -/
theorem multiplyShortcutsAgree : Obligations.MultiplyShortcutsAgree := by
  intro a
  refine ⟨xtime8_eq_setWidth a, (gmul8_two a).symm, ?_, (gmul8_four a).symm, (gmul8_eight a).symm, ?_, ?_, ?_, ?_⟩
  · rw [show (3 : Byte) = 2 ^^^ 1 from rfl, gmul8_xor, gmul8_two, gmul8_one]
  · rw [show (9 : Byte) = 8 ^^^ 1 from rfl, gmul8_xor, gmul8_eight, gmul8_one]
  · rw [show (11 : Byte) = 8 ^^^ 2 ^^^ 1 from rfl, gmul8_xor, gmul8_xor, gmul8_eight, gmul8_two, gmul8_one]
  · rw [show (13 : Byte) = 8 ^^^ 4 ^^^ 1 from rfl, gmul8_xor, gmul8_xor, gmul8_eight, gmul8_four, gmul8_one]
  · rw [show (14 : Byte) = 8 ^^^ 4 ^^^ 2 from rfl, gmul8_xor, gmul8_xor, gmul8_eight, gmul8_four, gmul8_two]

end Sys2Proof.Machine
end

section
/-! What a command's completion delivers, and how it fails (R87, R273, R291 to R293), whichever command it is: from the
lengths the command supports and the value it computes to the state that the bus sees. -/

namespace Sys2Proof.Machine

/-! ## The lengths a command supports (R291, R292) -/

section
variable {i : Instr} {lat : Latch}

theorem blockLengthOk_iff {W : BitVec 16} (h : blockLengths i = some [W.toNat]) :
    blockLengthOk i lat = true ↔ lat.blen = W := by
  rw [blockLengthOk, h, List.contains_iff_mem, List.mem_singleton, BitVec.toNat_inj]

/-- A KS command does not look at the block length. -/
theorem blockLengthOk_of_unchecked (h : blockLengths i = none) : blockLengthOk i lat = true := by
  rw [blockLengthOk, h]

theorem keyLengthOk_iff {Ls : List (BitVec 16)} (h : keyLengths i = Ls.map BitVec.toNat) :
    keyLengthOk i lat = true ↔ lat.klen ∈ Ls := by
  rw [keyLengthOk, h, List.contains_iff_mem, List.mem_map_of_injective fun _ _ => BitVec.eq_of_toNat_eq]

/-- R291: the block length is checked first. -/
theorem validateLengths_of_badBlock (h : ¬blockLengthOk i lat = true) :
    validateLengths i lat = some .invalidBlockWidth := by
  simp [validateLengths, h]

theorem validateLengths_of_badKey (hblk : blockLengthOk i lat = true) (hkey : ¬keyLengthOk i lat = true) :
    validateLengths i lat = some .invalidKeyWidth := by
  simp [validateLengths, hblk, hkey]

theorem validateLengths_of_ok (hblk : blockLengthOk i lat = true) (hkey : keyLengthOk i lat = true) :
    validateLengths i lat = none := by
  simp [validateLengths, hblk, hkey]

end

/-! ## The three outcomes of a completion -/

section
variable {i : Instr} {s : State}

/-- R293: a length error changes STATUS and nothing beside it. -/
theorem exec_failsAs {e : ErrorKind} (hv : validateLengths i s.lat = some e) :
    ∃ t, exec i s = .next t ∧ s.failsAs t e := by
  refine ⟨s.raiseError e, by rw [exec_eq, completeCommand_error hv], ?_⟩
  simp [State.failsAs, State.reports, State.inputsKept, State.outKept, State.roundKeysKept, State.hostKept]

/-- A successful completion of an ENC, DEC or FRB command: OUTREG is the placed result (R87). -/
theorem exec_deliversOut {W : Nat} {R : BitVec W} (hv : validateLengths i s.lat = none)
    (hR : resultOf i s.lat = some ⟨W, R⟩) :
    ∃ t, exec i s = .next t ∧
      s.deliversOut t ((placeResult R).extractLsb' 96 32) ((placeResult R).extractLsb' 64 32)
        ((placeResult R).extractLsb' 32 32) ((placeResult R).extractLsb' 0 32) := by
  refine ⟨(s.writeOut R).succeed, by rw [exec_eq, completeCommand_ok hv, executeOf, hR], ⟨rfl, rfl, rfl⟩,
    ⟨rfl, rfl, rfl, rfl⟩, ?_⟩
  simp [State.inputsKept, State.roundKeysKept, State.hostKept]

/-- A successful completion of a KS command: RKMEM begins with its words, and RK_COUNT is their number (R28, R32). -/
theorem exec_deliversKeys {n : Nat} (hv : validateLengths i s.lat = none) (hi : i.opField = 3)
    (hn : (roundKeyWordsOf i s.lat).length = n) :
    ∃ t, exec i s = .next t ∧ s.deliversKeys t n ∧
      ∀ m, m < n → Memory.get t.rkmem m = (roundKeyWordsOf i s.lat)[m]? := by
  subst hn
  have hle : (roundKeyWordsOf i s.lat).length ≤ 192 := length_roundKeyWordsOf_le i s.lat
  refine ⟨(s.writeRoundKeys (roundKeyWordsOf i s.lat)).succeed, ?_,
    ⟨⟨rfl, rfl, rfl⟩, ⟨?_, fun m hm => ?_⟩, ?_⟩, fun m hm => ?_⟩
  · rw [exec_eq, completeCommand_ok hv, executeOf, (resultOf_eq_none_iff i s.lat).mpr hi]
  · exact (BitVec.toNat_ofNat ..).trans (Nat.mod_eq_of_lt (by omega))
  · exact Memory.get_writeFront_ge s.rkmem hm
  · simp [State.inputsKept, State.outKept, State.hostKept]
  · exact Memory.get_writeFront_lt s.rkmem (hle.trans (by decide)) hm

end

/-! ## The effect of a command, by the lengths latched for it -/

section
variable {i : Instr} {W : BitVec 16} {Ls : List (BitVec 16)} {s : State}
  (hblk : blockLengths i = some [W.toNat]) (hkey : keyLengths i = Ls.map BitVec.toNat)

include hblk in
theorem exec_invalidBlockWidth (h : s.lat.blen ≠ W) : ∃ t, exec i s = .next t ∧ s.failsAs t .invalidBlockWidth :=
  exec_failsAs (validateLengths_of_badBlock (mt (blockLengthOk_iff hblk).mp h))

include hblk hkey in
theorem exec_invalidKeyWidth (hb : s.lat.blen = W) (hk : s.lat.klen ∉ Ls) :
    ∃ t, exec i s = .next t ∧ s.failsAs t .invalidKeyWidth :=
  exec_failsAs (validateLengths_of_badKey ((blockLengthOk_iff hblk).mpr hb) (mt (keyLengthOk_iff hkey).mp hk))

include hkey in
/-- The key-length error of a KS command, whatever the block length. -/
theorem exec_invalidKeyWidth_of_unchecked (hunchecked : blockLengths i = none) (hk : s.lat.klen ∉ Ls) :
    ∃ t, exec i s = .next t ∧ s.failsAs t .invalidKeyWidth :=
  exec_failsAs (validateLengths_of_badKey (blockLengthOk_of_unchecked hunchecked) (mt (keyLengthOk_iff hkey).mp hk))

include hblk hkey in
theorem validateLengths_of_supported (hb : s.lat.blen = W) (hk : s.lat.klen ∈ Ls) :
    validateLengths i s.lat = none :=
  validateLengths_of_ok ((blockLengthOk_iff hblk).mpr hb) ((keyLengthOk_iff hkey).mpr hk)

include hkey in
theorem validateLengths_of_supported_of_unchecked (hunchecked : blockLengths i = none) (hk : s.lat.klen ∈ Ls) :
    validateLengths i s.lat = none :=
  validateLengths_of_ok (blockLengthOk_of_unchecked hunchecked) ((keyLengthOk_iff hkey).mpr hk)

end

/-! ## Placement of a result (R87) -/

/-- A result as wide as OUTREG fills it. -/
theorem placeResult_block (R : BitVec 128) : placeResult R = R := by
  simp [placeResult]

/-- A narrower result is followed by zeros. -/
theorem placeResult_eq_append {W n : Nat} (h : W + n = 128) (R : BitVec W) : placeResult R = (R ++ 0#n).cast h := by
  have hn : 128 - W = n := by omega
  rw [placeResult, hn]
  ext i hi
  rw [BitVec.getElem_cast, BitVec.getElem_append, BitVec.getElem_shiftLeft]
  by_cases hlow : i < n
  · simp [hlow]
  · simp [hlow, BitVec.getLsbD_eq_getElem (show i - n < W by omega)]

section
variable {i : Instr} {s : State} (hv : validateLengths i s.lat = none)
include hv

/-- A successful completion with a 128-bit result. -/
theorem exec_deliversOut_block {R : BitVec 128} (hR : resultOf i s.lat = some ⟨128, R⟩) :
    ∃ t, exec i s = .next t ∧
      s.deliversOut t (R.extractLsb' 96 32) (R.extractLsb' 64 32) (R.extractLsb' 32 32) (R.extractLsb' 0 32) := by
  simpa only [placeResult_block] using exec_deliversOut hv hR

/-- A successful completion with a result of one byte. -/
theorem exec_deliversOut_byte {b : Byte} (hR : resultOf i s.lat = some ⟨8, b⟩) :
    ∃ t, exec i s = .next t ∧ s.deliversOut t (b ++ 0#24) 0 0 0 := by
  have hplace : placeResult b = b ++ 0#120 := placeResult_eq_append rfl b
  have hfirst : (b ++ 0#120).extractLsb' 96 32 = b ++ 0#24 := by
    rw [BitVec.extractLsb'_append_eq_ite, dif_pos (by decide), dif_neg (by decide), BitVec.extractLsb'_zero]
    exact congrArg (· ++ 0#24) BitVec.extractLsb'_eq_self
  have hrest {n : Nat} (hn : n + 32 ≤ 120) : (b ++ 0#120).extractLsb' n 32 = 0#32 := by
    rw [BitVec.extractLsb'_append_eq_of_add_le hn, BitVec.extractLsb'_zero]
  have h := exec_deliversOut hv hR
  rw [hplace, hfirst, hrest (by decide), hrest (by decide), hrest (by decide)] at h
  exact h

end

/-! ## The words of a round-key list in RKMEM -/

/-- Position `n * i + j` of a list made of pieces of length `n` is position `j` of piece `i`. -/
theorem getElem?_flatMap_of_length {α β : Type} {f : α → List β} {n j : Nat} (hf : ∀ a, (f a).length = n) (hj : j < n)
    (as : List α) (i : Nat) : (as.flatMap f)[n * i + j]? = as[i]?.bind fun a => (f a)[j]? := by
  induction as generalizing i with
  | nil => rfl
  | cons a as ih =>
    rw [List.flatMap_cons]
    cases i with
    | zero => rw [Nat.mul_zero, Nat.zero_add, List.getElem?_append_left (by rw [hf]; exact hj)]; rfl
    | succ i =>
      rw [List.getElem?_append_right (by rw [hf, Nat.mul_succ]; omega), hf, List.getElem?_cons_succ, ← ih i]
      congr 1
      rw [Nat.mul_succ]; omega

/-- Word `j` of the `i`-th 128-bit value, most significant word first (R148). -/
theorem getElem?_words128 (vs : List (BitVec 128)) (i : Nat) {j : Nat} (hj : j < 4) :
    (words128 vs)[4 * i + j]? = vs[i]?.map fun v => v.extractLsb' (96 - 32 * j) 32 := by
  rw [words128, getElem?_flatMap_of_length (n := 4) (fun _ => rfl) hj]
  cases vs[i]? with
  | none => rfl
  | some v => interval_cases j <;> rfl

end Sys2Proof.Machine
end

section
/-! The AES commands (41_aes.md R146 to R149). -/

namespace Sys2Proof.Machine

/-! ## Their operands (R85, R86) -/

section
variable (lat : Latch)

theorem blkOperand_128 : blkOperand 128 lat = lat.blk[0] ++ lat.blk[1] ++ lat.blk[2] ++ lat.blk[3] := by
  rw [blkOperand_eq_extractLsb' lat le_rfl]
  exact BitVec.extractLsb'_eq_self

/-- The last four words of the key register are cut off. -/
theorem keyOperand_128 : keyOperand 128 lat = lat.key[0] ++ lat.key[1] ++ lat.key[2] ++ lat.key[3] := by
  rw [keyOperand_eq_extractLsb' lat (by decide), Latch.keyReg]
  iterate 4 rw [BitVec.extractLsb'_append_eq_of_le (by decide)]
  exact BitVec.extractLsb'_eq_self

/-- The first byte of BLK_IN0. -/
theorem blkOperand_8 : blkOperand 8 lat = lat.blk[0].extractLsb' 24 8 := by
  rw [blkOperand_eq_extractLsb' lat (by decide), Latch.blkReg]
  iterate 3 rw [BitVec.extractLsb'_append_eq_of_le (by decide)]

/-- The first byte of KEY0. -/
theorem keyOperand_8 : keyOperand 8 lat = lat.key[0].extractLsb' 24 8 := by
  rw [keyOperand_eq_extractLsb' lat (by decide), Latch.keyReg]
  iterate 7 rw [BitVec.extractLsb'_append_eq_of_le (by decide)]

end

/-! ## Their effects -/

/-- Settles O34: the operands are the first four words of each register, and the result fills OUTREG. -/
theorem aesEncEffect : Obligations.AesEncEffect := by
  refine ⟨rfl, fun s => ⟨fun hb hk C hC => ?_, fun hb => exec_invalidBlockWidth rfl hb,
    fun hb hk => exec_invalidKeyWidth (Ls := [128]) rfl rfl hb (by simpa using hk)⟩⟩
  refine exec_deliversOut_block (validateLengths_of_supported (Ls := [128]) rfl rfl hb (by simp [hk])) ?_
  rw [resultOf, blkOperand_128, keyOperand_128, hC, Config.aesRounds]

/-- Settles O35: as for AES.ENC. -/
theorem aesDecEffect : Obligations.AesDecEffect := by
  refine ⟨rfl, fun s => ⟨fun hb hk P hP => ?_, fun hb => exec_invalidBlockWidth rfl hb,
    fun hb hk => exec_invalidKeyWidth (Ls := [128]) rfl rfl hb (by simpa using hk)⟩⟩
  refine exec_deliversOut_block (validateLengths_of_supported (Ls := [128]) rfl rfl hb (by simp [hk])) ?_
  rw [resultOf, blkOperand_128, keyOperand_128, hP, Config.aesRounds]

/-- Settles O36: the schedule has eleven round keys of four words, and word `4 * i + j` of them is word `j` of `RK_i`. -/
theorem aesKsEffect : Obligations.AesKsEffect := by
  refine ⟨rfl, fun s => ⟨fun hk => ?_,
    fun hk => exec_invalidKeyWidth_of_unchecked (Ls := [128]) rfl rfl (by simpa using hk)⟩⟩
  have hwords : roundKeyWordsOf .aesKs s.lat =
      words128 (aesKeySchedule 10 (s.lat.key[0] ++ s.lat.key[1] ++ s.lat.key[2] ++ s.lat.key[3])) := by
    rw [roundKeyWordsOf, keyOperand_128, Config.aesRounds]
  have hlen : (roundKeyWordsOf .aesKs s.lat).length = 44 := by
    rw [hwords, length_words128, length_aesKeySchedule]
  have hv : validateLengths .aesKs s.lat = none :=
    validateLengths_of_supported_of_unchecked (Ls := [128]) rfl rfl (by simp [hk])
  obtain ⟨t, hexec, hkeys, hmem⟩ := exec_deliversKeys hv rfl hlen
  refine ⟨t, hexec, hkeys, fun i j hi hj => ?_⟩
  rw [hmem (4 * i + j) (by omega), hwords, getElem?_words128 _ i hj]

/-- Settles O37: the operands are the first byte of each register, and the result is followed by zeros. -/
theorem aesFrbEffect : Obligations.AesFrbEffect := by
  refine ⟨rfl, fun s => ⟨fun hb hk => ?_, fun hb => exec_invalidBlockWidth rfl hb,
    fun hb hk => exec_invalidKeyWidth (Ls := [8]) rfl rfl hb (by simpa using hk)⟩⟩
  refine exec_deliversOut_byte (validateLengths_of_supported (Ls := [8]) rfl rfl hb (by simp [hk])) ?_
  rw [resultOf, blkOperand_8, keyOperand_8, aesFirstRoundByte]

end Sys2Proof.Machine
end

section
/-! The AES engine (41_aes.md R131, R133, R136, R137, R143, R144). -/

namespace Sys2Proof.Machine

/-! ## The state of a block (R133) and the row shifts (R136, R137) -/

theorem Quad.get_map {α β : Type} (f : α → β) (q : Quad α) (i : Fin 4) : (q.map f).get i = f (q.get i) := by
  fin_cases i <;> rfl

/-- R111: element `i` of four, counted from the most significant end. -/
theorem get_split4 (e : Nat) {w : Nat} (v : BitVec w) (i : Fin 4) :
    (split4 e v).get i = v.extractLsb' ((3 - i.val) * e) e := by
  fin_cases i
  · rfl
  · rfl
  · exact congrArg (fun n => v.extractLsb' n e) (Nat.one_mul e).symm
  · exact congrArg (fun n => v.extractLsb' n e) (Nat.zero_mul e).symm

/-- A slice of a slice is a slice. -/
theorem extractLsb'_extractLsb' {w start len start' len' : Nat} (v : BitVec w) (h : start' + len' ≤ len) :
    (v.extractLsb' start len).extractLsb' start' len' = v.extractLsb' (start + start') len' := by
  ext i hi
  rw [BitVec.getElem_extractLsb', BitVec.getElem_extractLsb', BitVec.getLsbD_extractLsb',
    decide_eq_true (show start' + i < len by omega), Bool.true_and, Nat.add_assoc]

/-- R133: column `c` is word `c` of the block, and row `r` is byte `r` of that word. -/
theorem aesAt_aesState (B : BitVec 128) (r c : Fin 4) :
    aesAt (aesState B) r c = B.extractLsb' (120 - 8 * (r.val + 4 * c.val)) 8 := by
  rw [aesAt, aesState, Quad.get_map, get_split4, get_split4, extractLsb'_extractLsb' B (by omega)]
  congr 1
  omega

/-- R136. -/
theorem aesAt_shiftRows (s : AesState) (r c : Fin 4) : aesAt (shiftRows s) r c = aesAt s r (c + r) := by
  fin_cases r <;> fin_cases c <;> rfl

/-- R137. -/
theorem aesAt_invShiftRows (s : AesState) (r c : Fin 4) : aesAt (invShiftRows s) r c = aesAt s r (c - r) := by
  fin_cases r <;> fin_cases c <;> rfl

/-- Settles O51: both layouts entry by entry, with the earlier laws that joining undoes splitting and one shift the other. -/
theorem aesStateLayoutAndRowShifts : Obligations.AesStateLayoutAndRowShifts :=
  ⟨fun B r c => ⟨aesAt_aesState B r c, aesBlock_aesState B⟩,
    fun s r c => ⟨aesAt_shiftRows s r c, aesAt_invShiftRows s r c, invShiftRows_shiftRows s⟩⟩

/-! ## The rounds (R143, R144) -/

/-- R143: a round that is not the last. -/
def aesRound (s : AesState) (rk : BitVec 128) : AesState := aesAddRoundKey (mixColumns (shiftRows (subBytes s))) rk

/-- R143: the last round. -/
def aesLastRound (s : AesState) (rk : BitVec 128) : AesState := aesAddRoundKey (shiftRows (subBytes s)) rk

/-- R144: what undoes a round that is not the last. -/
def aesInvRound (s : AesState) (rk : BitVec 128) : AesState :=
  invSubBytes (invShiftRows (invMixColumns (aesAddRoundKey s rk)))

/-- R144: what undoes the last round. -/
def aesInvLastRound (s : AesState) (rk : BitVec 128) : AesState :=
  invSubBytes (invShiftRows (aesAddRoundKey s rk))

theorem aesInvRound_aesRound (s : AesState) (rk : BitVec 128) : aesInvRound (aesRound s rk) rk = s := by
  rw [aesInvRound, aesRound, aesAddRoundKey_self, invMixColumns_mixColumns, invShiftRows_shiftRows, invSubBytes_subBytes]

theorem aesInvLastRound_aesLastRound (s : AesState) (rk : BitVec 128) : aesInvLastRound (aesLastRound s rk) rk = s := by
  rw [aesInvLastRound, aesLastRound, aesAddRoundKey_self, invShiftRows_shiftRows, invSubBytes_subBytes]

section
variable (rks : List (BitVec 128)) (rk : BitVec 128) (s : AesState)

/-- The loop of R143 is a fold of its rounds, and the last round key is added by the last round. -/
theorem aesEncRounds_concat : aesEncRounds (rks ++ [rk]) s = aesLastRound (rks.foldl aesRound s) rk := by
  induction rks generalizing s with
  | nil => rfl
  | cons k ks ih =>
    rw [List.cons_append, aesEncRounds, ih]
    · rfl
    · simp

/-- The loop of R144 is a fold of its rounds, and `RK_0` is added at the end. -/
theorem aesDecRounds_concat : aesDecRounds (rks ++ [rk]) s = aesAddRoundKey (rks.foldl aesInvRound s) rk := by
  induction rks generalizing s with
  | nil => rfl
  | cons k ks ih =>
    rw [List.cons_append, aesDecRounds, ih]
    · rfl
    · simp

end

/-- Rounds that are each undone are undone together, in reverse order. -/
theorem foldl_reverse_foldl {α β : Type} {f g : α → β → α} (h : ∀ a b, g (f a b) b = a) (bs : List β) (a : α) :
    bs.reverse.foldl g (bs.foldl f a) = a := by
  induction bs generalizing a with
  | nil => rfl
  | cons b bs ih => rw [List.foldl_cons, List.reverse_cons, List.foldl_append, ih]; exact h a b

/-- R142: a schedule of at least one round has a first and a last round key. -/
theorem aesKeySchedule_eq_cons_concat {R : Nat} (hR : 1 ≤ R) (k : BitVec 128) :
    ∃ rks rkR, aesKeySchedule R k = k :: (rks ++ [rkR]) := by
  rcases List.eq_nil_or_concat' (aesExpand R 1 (split4 32 k)) with hnil | ⟨rks, rkR, hlast⟩
  · have hlen := length_aesExpand R 1 (split4 32 k)
    rw [hnil, List.length_nil] at hlen
    omega
  · exact ⟨rks, rkR, by rw [aesKeySchedule, hlast]⟩

section
variable {R : Nat} {k rkR : BitVec 128} {rks : List (BitVec 128)} (h : aesKeySchedule R k = k :: (rks ++ [rkR]))
include h

theorem aesEncrypt_eq (p : BitVec 128) :
    aesEncrypt R p k = aesBlock (aesLastRound (rks.foldl aesRound (aesAddRoundKey (aesState p) k)) rkR) := by
  simp only [aesEncrypt, h, aesEncRounds_concat]

theorem aesDecrypt_eq (c : BitVec 128) :
    aesDecrypt R c k =
      aesBlock (aesAddRoundKey (rks.reverse.foldl aesInvRound (aesInvLastRound (aesState c) rkR)) k) := by
  have hrev : (aesKeySchedule R k).reverse = rkR :: (rks.reverse ++ [k]) := by simp [h]
  simp only [aesDecrypt, hrev, aesDecRounds_concat, aesInvLastRound]

end

/-- Settles O52: the last round is undone first, then the others in reverse order, then the addition of `RK_0`. -/
theorem aesDecryptInvertsEncrypt : Obligations.AesDecryptInvertsEncrypt := by
  intro R p k hR
  obtain ⟨rks, rkR, h⟩ := aesKeySchedule_eq_cons_concat hR k
  rw [aesDecrypt_eq h, aesEncrypt_eq h, aesState_aesBlock, aesInvLastRound_aesLastRound,
    foldl_reverse_foldl aesInvRound_aesRound, aesAddRoundKey_self, aesBlock_aesState]

/-! ## The S-box (R131) -/

/-- R131: the affine map of the S-box. -/
def aesAffine (b : Byte) : Byte := b ^^^ rol b 1 ^^^ rol b 2 ^^^ rol b 3 ^^^ rol b 4 ^^^ 0x63

/-- The affine map backwards. -/
def aesAffineInverse (y : Byte) : Byte := rol y 1 ^^^ rol y 3 ^^^ rol y 6 ^^^ 0x05

theorem aesAffine_aesAffineInverse : ∀ y : Byte, aesAffine (aesAffineInverse y) = y := by decide +kernel

theorem aesAffineInverse_aesSbox_zero : aesAffineInverse (aesSbox 0) = 0 := by decide +kernel

/-- R130, R131: what the affine map is applied to in each entry of the table. -/
theorem gmul8_aesAffineInverse_aesSbox :
    ∀ x : Byte, x ≠ 0 → gmul8 x (aesAffineInverse (aesSbox x)) = 1 := by decide +kernel

/-- Settles O50: undoing the affine map on an entry of the table gives the byte `b`, which is then checked to be the
inverse. -/
theorem aesSboxIsTheAlgebraicOne : Obligations.AesSboxIsTheAlgebraicOne := by
  refine fun x => ⟨aesAffineInverse (aesSbox x), ?_, gmul8_aesAffineInverse_aesSbox x,
    (aesAffine_aesAffineInverse (aesSbox x)).symm⟩
  rintro rfl
  exact aesAffineInverse_aesSbox_zero

end Sys2Proof.Machine
end

section
/-! The PRESENT commands (42_present.md R182 to R184). -/

namespace Sys2Proof.Machine

/-! ## Their operands (R85, R86) -/

section
variable (lat : Latch)

/-- The last two words of the block register are cut off. -/
theorem blkOperand_64 : blkOperand 64 lat = lat.blk[0] ++ lat.blk[1] := by
  rw [blkOperand_eq_extractLsb' lat (by decide), Latch.blkReg]
  iterate 2 rw [BitVec.extractLsb'_append_eq_of_le (by decide)]
  exact BitVec.extractLsb'_eq_self

/-- The first two words of the key register and the upper half of the third. -/
theorem keyOperand_80 : keyOperand 80 lat = lat.key[0] ++ lat.key[1] ++ lat.key[2].extractLsb' 16 16 := by
  rw [keyOperand_eq_extractLsb' lat (by decide), Latch.keyReg]
  iterate 5 rw [BitVec.extractLsb'_append_eq_of_le (by decide)]
  have hcut (u : BitVec 64) (v : Word) : (u ++ v).extractLsb' 16 80 = u ++ v.extractLsb' 16 16 := by
    have hsplit : (u ++ v).extractLsb' 32 64 ++ (u ++ v).extractLsb' 16 16 = (u ++ v).extractLsb' 16 80 :=
      BitVec.extractLsb'_append_extractLsb'_eq_extractLsb' rfl
    rw [← hsplit, BitVec.extractLsb'_append_eq_of_le (by decide), BitVec.extractLsb'_append_eq_of_add_le (by decide)]
    exact congrArg (· ++ v.extractLsb' 16 16) BitVec.extractLsb'_eq_self
  exact hcut _ _

end

/-! ## Their results (R87, R184) -/

/-- A successful completion with a 64-bit result. -/
theorem exec_deliversOut_twoWords {i : Instr} {s : State} (hv : validateLengths i s.lat = none) {R : BitVec 64}
    (hR : resultOf i s.lat = some ⟨64, R⟩) :
    ∃ t, exec i s = .next t ∧ s.deliversOut t (R.extractLsb' 32 32) (R.extractLsb' 0 32) 0 0 := by
  have hplace : placeResult R = R ++ 0#64 := placeResult_eq_append rfl R
  have hrest {n : Nat} (hn : n + 32 ≤ 64) : (R ++ 0#64).extractLsb' n 32 = 0#32 := by
    rw [BitVec.extractLsb'_append_eq_of_add_le hn, BitVec.extractLsb'_zero]
  have h := exec_deliversOut hv hR
  rw [hplace, BitVec.extractLsb'_append_eq_of_le (start := 96) (by decide),
    BitVec.extractLsb'_append_eq_of_le (start := 64) (by decide), hrest (by decide), hrest (by decide)] at h
  exact h

/-- Word `j` of the `i`-th 64-bit value, most significant word first (R184). -/
theorem getElem?_words64 (vs : List (BitVec 64)) (i : Nat) {j : Nat} (hj : j < 2) :
    (words64 vs)[2 * i + j]? = vs[i]?.map fun v => v.extractLsb' (32 - 32 * j) 32 := by
  rw [words64, getElem?_flatMap_of_length (n := 2) (fun _ => rfl) hj]
  cases vs[i]? with
  | none => rfl
  | some v => interval_cases j <;> rfl

/-! ## Their effects -/

/-- Settles O38: the operands are the first 64 and 80 bits of the registers, and two zero words follow the result. -/
theorem presentEncEffect : Obligations.PresentEncEffect := by
  refine ⟨rfl, fun s => ⟨fun hb hk C hC => ?_, fun hb => exec_invalidBlockWidth rfl hb,
    fun hb hk => exec_invalidKeyWidth (Ls := [80]) rfl rfl hb (by simpa using hk)⟩⟩
  refine exec_deliversOut_twoWords (validateLengths_of_supported (Ls := [80]) rfl rfl hb (by simp [hk])) ?_
  rw [resultOf, blkOperand_64, keyOperand_80, hC]

/-- Settles O39: as for PRESENT.ENC. -/
theorem presentDecEffect : Obligations.PresentDecEffect := by
  refine ⟨rfl, fun s => ⟨fun hb hk P hP => ?_, fun hb => exec_invalidBlockWidth rfl hb,
    fun hb hk => exec_invalidKeyWidth (Ls := [80]) rfl rfl hb (by simpa using hk)⟩⟩
  refine exec_deliversOut_twoWords (validateLengths_of_supported (Ls := [80]) rfl rfl hb (by simp [hk])) ?_
  rw [resultOf, blkOperand_64, keyOperand_80, hP]

/-- Settles O40: the schedule has 32 round keys of two words, and word `2 * i + j` of them is word `j` of `K_{i+1}`. -/
theorem presentKsEffect : Obligations.PresentKsEffect := by
  refine ⟨rfl, fun s => ⟨fun hk => ?_,
    fun hk => exec_invalidKeyWidth_of_unchecked (Ls := [80]) rfl rfl (by simpa using hk)⟩⟩
  have hwords : roundKeyWordsOf .presentKs s.lat =
      words64 (presentKeySchedule (s.lat.key[0] ++ s.lat.key[1] ++ s.lat.key[2].extractLsb' 16 16)) := by
    rw [roundKeyWordsOf, keyOperand_80]
  have hlen : (roundKeyWordsOf .presentKs s.lat).length = 64 := by
    rw [hwords, length_words64, length_presentKeySchedule]
  have hv : validateLengths .presentKs s.lat = none :=
    validateLengths_of_supported_of_unchecked (Ls := [80]) rfl rfl (by simp [hk])
  obtain ⟨t, hexec, hkeys, hmem⟩ := exec_deliversKeys hv rfl hlen
  refine ⟨t, hexec, hkeys, fun i j hi hj => ?_⟩
  rw [hmem (2 * i + j) (by omega), hwords, getElem?_words64 _ i hj]

end Sys2Proof.Machine
end

section
/-! The PRESENT engine (42_present.md R174 to R177, R180, R181). -/

namespace Sys2Proof.Machine

/-! ## The S-box layers (R174, R175) -/

/-- R111: nibble `j` of half-word `i`, both counted from the most significant end, as a nibble of the whole state. -/
theorem get_split4_get_split4 (s : BitVec 64) (i j : Fin 4) :
    (split4 4 ((split4 16 s).get i)).get j = s.extractLsb' (4 * (15 - (4 * i.val + j.val))) 4 := by
  rw [get_split4, get_split4, extractLsb'_extractLsb' s (by omega)]
  congr 1
  omega

/-- The nibbles of each half-word of a layer's result are substituted ones. -/
theorem split4_get_split4_nibbleLayer (t : Nibble → Nibble) (s : BitVec 64) (i : Fin 4) :
    split4 4 ((split4 16 (nibbleLayer t s)).get i) = (split4 4 ((split4 16 s).get i)).map t := by
  rw [nibbleLayer, split4_join16, Quad.get_map, split4_join4]

theorem extractLsb'_nibbleLayer (t : Nibble → Nibble) (s : BitVec 64) {k : Nat} (hk : k < 16) :
    (nibbleLayer t s).extractLsb' (4 * k) 4 = t (s.extractLsb' (4 * k) 4) := by
  obtain ⟨i, j, rfl⟩ : ∃ i j : Fin 4, k = 15 - (4 * i.val + j.val) :=
    ⟨⟨(15 - k) / 4, by omega⟩, ⟨(15 - k) % 4, by omega⟩, by simp only; omega⟩
  rw [← get_split4_get_split4, split4_get_split4_nibbleLayer, Quad.get_map, get_split4_get_split4]

/-- Settles O53: a nibble layer substitutes each nibble, with the earlier law that the one layer inverts the other. -/
theorem presentSBoxLayersByNibble : Obligations.PresentSBoxLayersByNibble :=
  fun s => ⟨fun _ hk => ⟨extractLsb'_nibbleLayer presentSbox s hk, extractLsb'_nibbleLayer presentInvSbox s hk⟩,
    invSBoxLayer_sBoxLayer s⟩

/-! ## The permutation (R176, R177) -/

section
variable (s : BitVec 64) {i : Nat} (hi : i < 64)
include hi

theorem presentP_eq_ite : presentP i = if i < 63 then 16 * i % 63 else 63 := by
  unfold presentP
  split_ifs <;> omega

/-- R177: bit `i` of the result comes from bit `P(i)`. -/
theorem getLsbD_invPLayer : (invPLayer s).getLsbD i = s.getLsbD (presentP i) := by
  rw [invPLayer, getLsbD_gatherBits, decide_eq_true hi, Bool.true_and]

/-- R176: bit `i` moves to bit `P(i)`. -/
theorem getLsbD_pLayer_presentP : (pLayer s).getLsbD (presentP i) = s.getLsbD i := by
  rw [pLayer, getLsbD_gatherBits, decide_eq_true (presentP_lt i hi), Bool.true_and, presentPInv_presentP i hi]

end

/-- Settles O54: each layer bit by bit, with the earlier law that the one inverts the other. -/
theorem presentPermutationMovesEachBit : Obligations.PresentPermutationMovesEachBit := by
  refine fun s => ⟨fun i hi => ?_, invPLayer_pLayer s⟩
  rw [← presentP_eq_ite hi]
  exact ⟨getLsbD_pLayer_presentP s hi, getLsbD_invPLayer s hi⟩

/-! ## The rounds (R180, R181) -/

/-- R180: a round of the loop. -/
def presentRound (s k : BitVec 64) : BitVec 64 := pLayer (sBoxLayer (presentAddRoundKey s k))

/-- R181: what undoes a round of the loop. -/
def presentInvRound (s k : BitVec 64) : BitVec 64 := presentAddRoundKey (invSBoxLayer (invPLayer s)) k

theorem presentInvRound_presentRound (s k : BitVec 64) : presentInvRound (presentRound s k) k = s := by
  rw [presentInvRound, presentRound, invPLayer_pLayer, invSBoxLayer_sBoxLayer, presentAddRoundKey_self]

section
variable (ks : List (BitVec 64)) (s : BitVec 64)

/-- The loop of R180 is a fold of its rounds, and the last round key is added at the end. -/
theorem presentEncRounds_concat (k : BitVec 64) :
    presentEncRounds (ks ++ [k]) s = presentAddRoundKey (ks.foldl presentRound s) k := by
  induction ks generalizing s with
  | nil => rfl
  | cons k' ks ih =>
    rw [List.cons_append, presentEncRounds, ih]
    · rfl
    · simp

theorem presentDecRounds_eq_foldl : presentDecRounds ks s = ks.foldl presentInvRound s := by
  induction ks generalizing s with
  | nil => rfl
  | cons k ks ih => exact ih _

end

/-- R179: the schedule has a last round key. -/
theorem presentKeySchedule_eq_concat (K : BitVec 80) : ∃ ks k32, presentKeySchedule K = ks ++ [k32] :=
  (List.eq_nil_or_concat' (presentKeySchedule K)).resolve_left
    (List.ne_nil_of_length_pos (by rw [length_presentKeySchedule]; decide))

section
variable {K : BitVec 80} {ks : List (BitVec 64)} {k32 : BitVec 64} (h : presentKeySchedule K = ks ++ [k32])
include h

theorem presentEncrypt_eq (p : BitVec 64) :
    presentEncrypt p K = presentAddRoundKey (ks.foldl presentRound p) k32 := by
  rw [presentEncrypt, h, presentEncRounds_concat]

theorem presentDecrypt_eq (c : BitVec 64) :
    presentDecrypt c K = ks.reverse.foldl presentInvRound (presentAddRoundKey c k32) := by
  have hrev : (presentKeySchedule K).reverse = k32 :: ks.reverse := by rw [h, List.reverse_concat]
  simp only [presentDecrypt, hrev, presentDecRounds_eq_foldl]

end

/-- Settles O55: the addition of `K_32` is undone first, then the rounds in reverse order. -/
theorem presentDecryptInvertsEncrypt : Obligations.PresentDecryptInvertsEncrypt := by
  intro p K
  obtain ⟨ks, k32, h⟩ := presentKeySchedule_eq_concat K
  rw [presentDecrypt_eq h, presentEncrypt_eq h, presentAddRoundKey_self,
    foldl_reverse_foldl presentInvRound_presentRound]

end Sys2Proof.Machine
end

section
/-! The LEA commands and the LEA engine (43_lea.md R207, R208, R211 to R213). -/

namespace Sys2Proof.Machine

/-! ## Their operands (R85, R86) -/

section
variable (lat : Latch)

/-- The last two words of the key register are cut off. -/
theorem keyOperand_192 :
    keyOperand 192 lat = lat.key[0] ++ lat.key[1] ++ lat.key[2] ++ lat.key[3] ++ lat.key[4] ++ lat.key[5] := by
  rw [keyOperand_eq_extractLsb' lat (by decide), Latch.keyReg]
  iterate 2 rw [BitVec.extractLsb'_append_eq_of_le (by decide)]
  exact BitVec.extractLsb'_eq_self

theorem keyOperand_256 : keyOperand 256 lat = lat.keyReg := by
  rw [keyOperand_eq_extractLsb' lat le_rfl]
  exact BitVec.extractLsb'_eq_self

end

section
variable {lat : Latch}

/-- R292: none of the three key lengths is latched. -/
theorem leaKlen_not_mem (h128 : lat.klen ≠ 128) (h192 : lat.klen ≠ 192) (h256 : lat.klen ≠ 256) :
    lat.klen ∉ [128, 192, 256] := by
  simpa using ⟨h128, h192, h256⟩

/-- What holds of the key register's first words at each of the three key lengths holds of the key operand of the latched
length (R209). -/
theorem leaKey_of_cases {P : (L : Nat) → BitVec L → Prop}
    (h : (lat.klen = 128 ∧ P 128 (lat.key[0] ++ lat.key[1] ++ lat.key[2] ++ lat.key[3])) ∨
      (lat.klen = 192 ∧
        P 192 (lat.key[0] ++ lat.key[1] ++ lat.key[2] ++ lat.key[3] ++ lat.key[4] ++ lat.key[5])) ∨
      (lat.klen = 256 ∧ P 256 lat.keyReg)) :
    lat.klen ∈ [128, 192, 256] ∧ P lat.klen.toNat (keyOperand lat.klen.toNat lat) := by
  rw [← keyOperand_256, ← keyOperand_192, ← keyOperand_128] at h
  rcases h with ⟨hk, hP⟩ | ⟨hk, hP⟩ | ⟨hk, hP⟩
  all_goals
    rw [hk]
    exact ⟨by decide, hP⟩

end

/-! ## Their effects -/

/-- Settles O41: the block fills its operand, the key operand has the latched length, and the result fills OUTREG. -/
theorem leaEncEffect : Obligations.LeaEncEffect := by
  refine ⟨rfl, fun s => ⟨fun hb C B hB hC => ?_, fun hb => exec_invalidBlockWidth rfl hb,
    fun hb h1 h2 h3 => exec_invalidKeyWidth (Ls := [128, 192, 256]) rfl rfl hb (leaKlen_not_mem h1 h2 h3)⟩⟩
  obtain ⟨hk, hC⟩ := leaKey_of_cases (P := fun L K => C = leaEncrypt L B K) hC
  refine exec_deliversOut_block (validateLengths_of_supported (Ls := [128, 192, 256]) rfl rfl hb hk) ?_
  rw [resultOf, blkOperand_128, hC, hB]

/-- Settles O42: as for LEA.ENC. -/
theorem leaDecEffect : Obligations.LeaDecEffect := by
  refine ⟨rfl, fun s => ⟨fun hb P C hC hP => ?_, fun hb => exec_invalidBlockWidth rfl hb,
    fun hb h1 h2 h3 => exec_invalidKeyWidth (Ls := [128, 192, 256]) rfl rfl hb (leaKlen_not_mem h1 h2 h3)⟩⟩
  obtain ⟨hk, hP⟩ := leaKey_of_cases (P := fun L K => P = leaDecrypt L C K) hP
  refine exec_deliversOut_block (validateLengths_of_supported (Ls := [128, 192, 256]) rfl rfl hb hk) ?_
  rw [resultOf, blkOperand_128, hP, hC]

/-- Settles O43: the schedule has 24, 28 or 32 round keys of six words, and word `6 * i + j` of them is word `j` of
`RK_i`. -/
theorem leaKsEffect : Obligations.LeaKsEffect := by
  refine ⟨rfl, fun s => ⟨fun R rks h => ?_,
    fun h1 h2 h3 => exec_invalidKeyWidth_of_unchecked (Ls := [128, 192, 256]) rfl rfl (leaKlen_not_mem h1 h2 h3)⟩⟩
  obtain ⟨hk, hR, hrks⟩ := leaKey_of_cases (lat := s.lat)
      (P := fun L K => rks.length = R ∧ rks = leaKeySchedule L K) <| by
    rcases h with ⟨hk, rfl, rfl⟩ | ⟨hk, rfl, rfl⟩ | ⟨hk, rfl, rfl⟩
    · exact .inl ⟨hk, length_leaKeySchedule_128 _, rfl⟩
    · exact .inr (.inl ⟨hk, length_leaKeySchedule_192 _, rfl⟩)
    · exact .inr (.inr ⟨hk, length_leaKeySchedule_256 _, rfl⟩)
  have hwords : roundKeyWordsOf .leaKs s.lat = rks.flatMap LeaRoundKey.words := by rw [roundKeyWordsOf, hrks]
  have hlen : (roundKeyWordsOf .leaKs s.lat).length = 6 * R := by rw [hwords, length_leaWords, hR]
  have hv : validateLengths .leaKs s.lat = none :=
    validateLengths_of_supported_of_unchecked (Ls := [128, 192, 256]) rfl rfl hk
  obtain ⟨t, hexec, hkeys, hmem⟩ := exec_deliversKeys hv rfl hlen
  refine ⟨t, hexec, hkeys, fun i hi => ?_⟩
  obtain ⟨rk, hrk⟩ : ∃ rk, rks[i]? = some rk := ⟨_, List.getElem?_eq_getElem (hR ▸ hi)⟩
  have hword {j : Nat} (hj : j < 6) : Memory.get t.rkmem (6 * i + j) = rk.words[j]? := by
    rw [hmem (6 * i + j) (by omega), hwords, getElem?_flatMap_of_length (n := 6) (fun _ => rfl) hj, hrk]
    rfl
  exact ⟨rk, hrk, hword (j := 0) (by decide), hword (by decide), hword (by decide), hword (by decide),
    hword (by decide), hword (by decide)⟩

/-! ## The rounds (R207, R208) -/

/-- Whatever the key schedule, of a key of any length. -/
theorem leaDecrypt_leaEncrypt (L : Nat) (B : BitVec 128) (K : BitVec L) : leaDecrypt L (leaEncrypt L B K) K = B := by
  rw [leaDecrypt, leaEncrypt, split4_join32, foldl_reverse_foldl leaInvRound_leaRound, join32_split4]

/-- Settles O56: the rounds are undone in reverse order. -/
theorem leaDecryptInvertsEncrypt : Obligations.LeaDecryptInvertsEncrypt :=
  fun L B K _ => leaDecrypt_leaEncrypt L B K

end Sys2Proof.Machine
end

section
/-! The Piccolo commands (44_piccolo.md R244 to R246). -/

namespace Sys2Proof.Machine

/-! ## Their key operand (R85, R242) -/

section
variable {lat : Latch}

/-- R292: neither of the two key lengths is latched. -/
theorem piccoloKlen_not_mem (h80 : lat.klen ≠ 80) (h128 : lat.klen ≠ 128) : lat.klen ∉ [80, 128] := by
  simpa using ⟨h80, h128⟩

/-- What holds of the key register's first bits at each of the two key lengths holds of the key operand of the latched
length (R242). -/
theorem piccoloKey_of_cases {P : (L : Nat) → BitVec L → Prop}
    (h : (lat.klen = 80 ∧ P 80 (lat.key[0] ++ lat.key[1] ++ lat.key[2].extractLsb' 16 16)) ∨
      (lat.klen = 128 ∧ P 128 (lat.key[0] ++ lat.key[1] ++ lat.key[2] ++ lat.key[3]))) :
    lat.klen ∈ [80, 128] ∧ P lat.klen.toNat (keyOperand lat.klen.toNat lat) := by
  rw [← keyOperand_80, ← keyOperand_128] at h
  rcases h with ⟨hk, hP⟩ | ⟨hk, hP⟩
  all_goals
    rw [hk]
    exact ⟨by decide, hP⟩

end

/-! ## Their effects -/

/-- Settles O44: the key operand has the latched length, and two zero words follow the result. -/
theorem piccoloEncEffect : Obligations.PiccoloEncEffect := by
  refine ⟨rfl, fun s => ⟨fun hb C hC => ?_, fun hb => exec_invalidBlockWidth rfl hb,
    fun hb h80 h128 => exec_invalidKeyWidth (Ls := [80, 128]) rfl rfl hb (piccoloKlen_not_mem h80 h128)⟩⟩
  obtain ⟨hk, hC⟩ := piccoloKey_of_cases (P := fun L K => C = piccoloEncrypt L (s.lat.blk[0] ++ s.lat.blk[1]) K) hC
  refine exec_deliversOut_twoWords (validateLengths_of_supported (Ls := [80, 128]) rfl rfl hb hk) ?_
  rw [resultOf, blkOperand_64, hC]

/-- Settles O45: as for PICCOLO.ENC. -/
theorem piccoloDecEffect : Obligations.PiccoloDecEffect := by
  refine ⟨rfl, fun s => ⟨fun hb P hP => ?_, fun hb => exec_invalidBlockWidth rfl hb,
    fun hb h80 h128 => exec_invalidKeyWidth (Ls := [80, 128]) rfl rfl hb (piccoloKlen_not_mem h80 h128)⟩⟩
  obtain ⟨hk, hP⟩ := piccoloKey_of_cases (P := fun L K => P = piccoloDecrypt L (s.lat.blk[0] ++ s.lat.blk[1]) K) hP
  refine exec_deliversOut_twoWords (validateLengths_of_supported (Ls := [80, 128]) rfl rfl hb hk) ?_
  rw [resultOf, blkOperand_64, hP]

/-- R246: the pair of round `i` follows the two words of the whitening keys. -/
theorem getElem?_piccoloKeyMemory_round (ks : PiccoloKeys) (i : Nat) :
    (piccoloKeyMemory ks)[2 + i]? = ks.rk[i]?.map fun p => p.1 ++ p.2 := by
  rw [Nat.add_comm 2 i, piccoloKeyMemory, List.getElem?_cons_succ, List.getElem?_cons_succ, List.getElem?_map]

/-- Settles O46: the schedule has 25 or 31 pairs of round keys, one word each behind the two words of the whitening keys. -/
theorem piccoloKsEffect : Obligations.PiccoloKsEffect := by
  refine ⟨rfl, fun s => ⟨fun r ks h => ?_, fun h80 h128 =>
    exec_invalidKeyWidth_of_unchecked (Ls := [80, 128]) rfl rfl (piccoloKlen_not_mem h80 h128)⟩⟩
  obtain ⟨hk, hr, hks⟩ := piccoloKey_of_cases (lat := s.lat)
      (P := fun L K => ks.rk.length = r ∧ ks = piccoloKeySchedule L K) <| by
    rcases h with ⟨hk, rfl, rfl⟩ | ⟨hk, rfl, rfl⟩
    · exact .inl ⟨hk, length_piccoloKeySchedule_80 _, rfl⟩
    · exact .inr ⟨hk, length_piccoloKeySchedule_128 _, rfl⟩
  have hwords : roundKeyWordsOf .piccoloKs s.lat = piccoloKeyMemory ks := by rw [roundKeyWordsOf, hks]
  have hlen : (roundKeyWordsOf .piccoloKs s.lat).length = r + 2 := by rw [hwords, length_piccoloKeyMemory, hr]
  have hv : validateLengths .piccoloKs s.lat = none :=
    validateLengths_of_supported_of_unchecked (Ls := [80, 128]) rfl rfl hk
  obtain ⟨t, hexec, hkeys, hmem⟩ := exec_deliversKeys hv rfl hlen
  rw [hwords] at hmem
  refine ⟨t, hexec, hkeys, hmem 0 (by omega), hmem 1 (by omega), fun i hi => ?_⟩
  obtain ⟨p, hp⟩ : ∃ p, ks.rk[i]? = some p := ⟨_, List.getElem?_eq_getElem (hr ▸ hi)⟩
  exact ⟨p, hp, by rw [hmem (2 + i) (by omega), getElem?_piccoloKeyMemory_round, hp, Option.map_some]⟩

end Sys2Proof.Machine
end

section
/-! The Piccolo engine (44_piccolo.md R233, R238, R239, R241). -/

namespace Sys2Proof.Machine

/-! ## The round permutation by bytes (R233) -/

/-- R111: the bytes of a state are those of its half-words. -/
theorem splitList_join16 (X : Quad HalfWord) :
    splitList 8 8 (join16 X) = [leftByte X.e0, rightByte X.e0, leftByte X.e1, rightByte X.e1,
      leftByte X.e2, rightByte X.e2, leftByte X.e3, rightByte X.e3] := by
  have hleft (n : Nat) : leftByte ((join16 X).extractLsb' n 16) = (join16 X).extractLsb' (n + 8) 8 :=
    extractLsb'_extractLsb' _ (by decide)
  have hright (n : Nat) : rightByte ((join16 X).extractLsb' n 16) = (join16 X).extractLsb' n 8 :=
    extractLsb'_extractLsb' _ (by decide)
  conv_rhs => rw [← split4_join16 X]
  simp only [split4, hleft, hright]
  rfl

/-- Settles O57: each half-word of the permuted state is made of two bytes of the state. -/
theorem piccoloRoundPermutationByBytes : Obligations.PiccoloRoundPermutationByBytes := by
  intro X x0 x1 x2 x3 x4 x5 x6 x7 h
  simp only [splitList_join16, List.cons.injEq] at h
  obtain ⟨rfl, rfl, rfl, rfl, rfl, rfl, rfl, rfl, -⟩ := h
  simp only [splitList_join16, piccoloRP, leftByte_append, rightByte_append]

/-! ## The rounds undone (R238, R239) -/

theorem piccoloWhiten_self (X : Quad HalfWord) (a b : HalfWord) : piccoloWhiten (piccoloWhiten X a b) a b = X := by
  simp only [piccoloWhiten, xor_cancel_right]

/-- RP, `n` exchanges of the halves and RP are one exchange more. -/
theorem piccoloRP_iterate_swap_RP (n : Nat) (X : Quad HalfWord) :
    piccoloRP (piccoloSwap^[n] (piccoloRP X)) = piccoloSwap^[n + 1] X := by
  have hcomm : Function.Commute piccoloRP piccoloSwap := fun Y => (piccoloSwap_RP Y).symm
  rw [hcomm.iterate_right n, piccoloRP_RP, Function.iterate_succ_apply]

/-- A round after `n` exchanges of the halves, under the pair exchanged as often. -/
theorem piccoloRound_iterate_swap (n : Nat) (X : Quad HalfWord) (rk : HalfWord × HalfWord) :
    piccoloRound (piccoloSwap^[n] X) (Prod.swap^[n] rk) = piccoloSwap^[n] (piccoloRound X rk) := by
  induction n generalizing X rk with
  | zero => rfl
  | succ n ih => exact ih (piccoloSwap X) rk.swap

theorem piccoloRounds_cons_cons (rk rk' : HalfWord × HalfWord) (rks : List (HalfWord × HalfWord)) (X : Quad HalfWord) :
    piccoloRounds (rk :: rk' :: rks) X = piccoloRounds (rk' :: rks) (piccoloRP (piccoloRound X rk)) := rfl

/-- The last of several rounds is the one that RP precedes and does not follow. -/
theorem piccoloRounds_concat {rks : List (HalfWord × HalfWord)} (h : rks ≠ []) (rk : HalfWord × HalfWord)
    (X : Quad HalfWord) : piccoloRounds (rks ++ [rk]) X = piccoloRound (piccoloRP (piccoloRounds rks X)) rk := by
  induction rks generalizing X with
  | nil => exact absurd rfl h
  | cons k rks ih =>
    cases rks with
    | nil => rfl
    | cons k' rks => exact ih (List.cons_ne_nil k' rks) _

/-- R239: the exchange of the pairs of the odd rounds, as an exchange repeated round by round. -/
theorem ite_even_eq_iterate_swap (i : Nat) (p : HalfWord × HalfWord) :
    (if i % 2 = 0 then p else (p.2, p.1)) = Prod.swap^[i] p := by
  have hinv : Function.Involutive (Prod.swap : HalfWord × HalfWord → HalfWord × HalfWord) := Prod.swap_swap
  split_ifs with hi
  · rw [hinv.iterate_even (Nat.even_iff.mpr hi), id]
  · rw [hinv.iterate_odd (Nat.odd_iff.mpr (Nat.mod_two_ne_zero.mp hi)), Prod.swap]

theorem piccoloDecKeys_wk (ks : PiccoloKeys) : (piccoloDecKeys ks).wk = ⟨ks.wk.e2, ks.wk.e3, ks.wk.e0, ks.wk.e1⟩ := rfl

section
variable (wk : Quad HalfWord) (rk : HalfWord × HalfWord) (rks : List (HalfWord × HalfWord))

/-- R239: the first pair of encryption is the last one of decryption. -/
theorem piccoloDecKeys_rk_cons : (piccoloDecKeys ⟨wk, rk :: rks⟩).rk =
    (piccoloDecKeys ⟨wk, rks⟩).rk ++ [Prod.swap^[rks.length] rk] := by
  simp only [piccoloDecKeys, ite_even_eq_iterate_swap, List.reverse_cons, List.mapIdx_concat, List.length_reverse]

/-- Decryption's rounds undo encryption's, up to one exchange of the halves for each round after the first. -/
theorem piccoloRounds_decKeys_rounds (X : Quad HalfWord) :
    piccoloRounds (piccoloDecKeys ⟨wk, rk :: rks⟩).rk (piccoloRounds (rk :: rks) X) = piccoloSwap^[rks.length] X := by
  induction rks generalizing rk X with
  | nil => exact piccoloRound_self X rk
  | cons k rks ih =>
    have hne : (piccoloDecKeys ⟨wk, k :: rks⟩).rk ≠ [] := by
      rw [piccoloDecKeys_rk_cons]
      exact List.concat_ne_nil _ _
    calc piccoloRounds (piccoloDecKeys ⟨wk, rk :: k :: rks⟩).rk (piccoloRounds (rk :: k :: rks) X)
      _ = piccoloRound (piccoloRP (piccoloSwap^[rks.length] (piccoloRP (piccoloRound X rk))))
            (Prod.swap^[rks.length + 1] rk) := by
          rw [piccoloDecKeys_rk_cons, piccoloRounds_concat hne, piccoloRounds_cons_cons, ih, List.length_cons]
      _ = piccoloSwap^[rks.length + 1] X := by
          rw [piccoloRP_iterate_swap_RP, piccoloRound_iterate_swap, piccoloRound_self]

end

/-- R239: `G` under the decryption keys undoes `G`, where the number of rounds is odd. -/
theorem piccoloG_decKeys {ks : PiccoloKeys} (hodd : Odd ks.rk.length) (X : Quad HalfWord) :
    piccoloG (piccoloDecKeys ks) (piccoloG ks X) = X := by
  obtain ⟨wk, rks⟩ := ks
  cases rks with
  | nil => exact absurd hodd Nat.not_odd_zero
  | cons rk rks =>
    have heven : Even rks.length := by simpa [Nat.odd_add_one] using hodd
    have hswap : piccoloSwap^[rks.length] = id := Function.Involutive.iterate_even piccoloSwap_swap heven
    simp only [piccoloG, piccoloDecKeys_wk, piccoloWhiten_self, piccoloRounds_decKeys_rounds, hswap, id]

theorem odd_length_piccoloKeySchedule {L : Nat} (hL : L = 80 ∨ L = 128) (K : BitVec L) :
    Odd (piccoloKeySchedule L K).rk.length := by
  rcases hL with rfl | rfl
  · rw [length_piccoloKeySchedule_80]; decide
  · rw [length_piccoloKeySchedule_128]; decide

/-- Settles O58: both variants have an odd number of rounds, so decryption leaves the halves in their places. -/
theorem piccoloDecryptInvertsEncrypt : Obligations.PiccoloDecryptInvertsEncrypt := by
  intro L B K hL
  rw [piccoloDecrypt, piccoloEncrypt, split4_join16, piccoloG_decKeys (odd_length_piccoloKeySchedule hL K), join16_split4]

end Sys2Proof.Machine
end

section
/-! The command lifecycle (45_facade.md section 1): acceptance, the completion step, what bus reads return meanwhile, and the
loop that waits for the completion. -/

namespace Sys2Proof.Machine

/-! ## Acceptance (R270, R271) -/

/-- R33, R36: each KEY register is sampled, with a draw of its own where it was not written. -/
theorem snapshot_key (s : State) (v : Word) (j : Fin 8) :
    (s.snapshot v).key[j.val] = s.key[j.val].sample (s.draws + j.val) := by
  fin_cases j <;> rfl

theorem snapshot_blk (s : State) (v : Word) (j : Fin 4) :
    (s.snapshot v).blk[j.val] = s.blkIn[j.val].sample (s.draws + 8 + j.val) := by
  fin_cases j <;> rfl

/-- Settles O15: acceptance samples the operand registers and writes CMD, STATUS and LAT alone. -/
theorem acceptedCommandTakesItsSnapshot : Obligations.AcceptedCommandTakesItsSnapshot := by
  intro s v es hidle hin
  have hkey (j : Fin 8) (x : Word) (hx : s.key[j.val].known = some x) : (s.snapshot v).key[j.val] = x :=
    (snapshot_key s v j).trans (DataWord.sample_of_known hx _)
  have hblk (j : Fin 4) (x : Word) (hx : s.blkIn[j.val].known = some x) : (s.snapshot v).blk[j.val] = x :=
    (snapshot_blk s v j).trans (DataWord.sample_of_known hx _)
  refine ⟨_, step_accept hidle hin, rfl, rfl, hkey, hblk, ?_⟩
  simp

/-- Settles O16: the script write of a CMD register that is not open to a command. -/
theorem commandWriteWhileBusyIsDropped : Obligations.CommandWriteWhileBusyIsDropped := by
  intro s v es hbusy hin
  have hdropped : s.writeReg .cmd v = s := if_pos hbusy
  rw [step_scriptWrite (r := .cmd) hin, hdropped]

/-! ## The completion step (R272 to R274) -/

/-- The step of a core in progress when it is the completion step's turn. -/
theorem step_of_completionDue {s : State} (hbusy : s.busy = true) (hdue : s.completionDue) :
    step s = completeStep s.popEvent := by
  rcases hdue with hin | ⟨es, hin⟩
  · rw [step_nil hin, completeIfBusy_of_busy hbusy, State.popEvent_of_nil hin]
  · rw [step_complete hbusy hin, State.popEvent_of_cons hin]

theorem completeStep_of_ok {s : State} {i : Instr} (h : decode s.lat.cmd = .ok i) : completeStep s = exec i s := by
  rw [completeStep, h]

/-- R295: the completion step always answers a next state. -/
theorem exists_completeStep_eq_next (s : State) : ∃ t, completeStep s = .next t := by
  rcases completeStep_cases s with ⟨i, -, hc⟩ | ⟨e, -, hc⟩
  · exact ⟨_, hc.trans (exec_eq i s)⟩
  · exact ⟨_, hc⟩

/-- R291, R293: what fails validation is reported, be it the word or a length. -/
theorem completeStep_of_invalid {s : State} {e : ErrorKind} (hv : validate s.lat = some e) :
    completeStep s = .next (s.raiseError e) := by
  cases hd : decode s.lat.cmd with
  | error x =>
    obtain rfl : .invalidCommand = e := by simpa [validate_of_error hd] using hv
    exact completeStep_of_error hd
  | ok i =>
    rw [validate_of_ok hd] at hv
    rw [completeStep_of_ok hd, exec_eq, completeCommand_error hv]

theorem exists_decode_of_valid {lat : Latch} (hv : validate lat = none) : ∃ i, decode lat.cmd = .ok i := by
  cases hd : decode lat.cmd with
  | error x => simp [validate_of_error hd] at hv
  | ok i => exact ⟨i, rfl⟩

/-- R273: a valid command writes its outputs and succeeds. -/
theorem completeStep_of_valid {s : State} {i : Instr} (hd : decode s.lat.cmd = .ok i) (hv : validate s.lat = none) :
    completeStep s = .next (executeOf i s).succeed := by
  rw [validate_of_ok hd] at hv
  rw [completeStep_of_ok hd, exec_eq, completeCommand_ok hv]

/-- R81, R87: an ENC, DEC or FRB command writes OUTREG, and what it writes is computed from the snapshot. -/
theorem executeOf_blkOut_congr {s s' : State} {i : Instr} (hi : i.opField ≠ 3) (hlat : s.lat = s'.lat) :
    (executeOf i s).blkOut = (executeOf i s').blkOut := by
  unfold executeOf
  rw [← hlat]
  cases hR : resultOf i s.lat with
  | some R => rfl
  | none => exact absurd ((resultOf_eq_none_iff i s.lat).mp hR) hi

theorem executeOf_of_keySchedule {i : Instr} (hi : i.opField = 3) (s : State) :
    executeOf i s = s.writeRoundKeys (roundKeyWordsOf i s.lat) := by
  rw [executeOf, (resultOf_eq_none_iff i s.lat).mpr hi]

/-- R28, R32: the words that the count of a KS command counts are those it wrote. -/
theorem get_writeRoundKeys_of_lt_rkCount {s : State} {ws : List Word} (hlen : ws.length ≤ 192) {n : Nat}
    (hn : n < (BitVec.ofNat 16 ws.length).toNat) : Memory.get (s.writeRoundKeys ws).rkmem n = ws[n]? := by
  rw [BitVec.toNat_ofNat] at hn
  exact Memory.get_writeFront_lt s.rkmem (hlen.trans (by decide)) (hn.trans_le (Nat.mod_le _ _))

/-- Settles O17: at a `complete` event the state is the one without that event, and with nothing pending it is the same. -/
theorem stepRunsTheDecodedCommand : Obligations.StepRunsTheDecodedCommand := by
  intro s es hbusy
  refine ⟨fun i hd _ => ⟨fun hin => ?_, fun hin => ?_⟩, fun ⟨e, hd⟩ => ?_⟩
  · rw [step_complete hbusy hin]
    exact completeStep_of_ok (s := { s with inputs := es }) hd
  · rw [step_of_completionDue hbusy (.inl hin), State.popEvent_of_nil hin, completeStep_of_ok hd]
  · have hreport (hdue : s.completionDue) : ∃ t, step s = .next t ∧ t.reports .invalidCommand :=
      ⟨_, (step_of_completionDue hbusy hdue).trans (completeStep_of_error (s := s.popEvent) hd), rfl, rfl, rfl⟩
    exact ⟨fun hin => hreport (.inr ⟨es, hin⟩), fun hin => hreport (.inl hin)⟩

/-- Settles O19: each outcome of the completion step sets STATUS so and keeps the inputs and the host's record. -/
theorem completionWritesStatus : Obligations.CompletionWritesStatus := by
  intro s es hbusy hin
  obtain ⟨t, ht⟩ := exists_completeStep_eq_next { s with inputs := es }
  refine ⟨t, (step_complete hbusy hin).trans ht, ?_⟩
  rcases completeStep_outcome ht with ⟨e, hv, rfl⟩ | ⟨i, W, R, hv, -, -, -, rfl⟩ | ⟨i, hv, -, -, rfl⟩
  all_goals
    rw [show validate s.lat = _ from hv]
    simp [State.inputsKept]

/-- Settles O21: validation, the result and the round-key words are functions of LAT, and below the count RKMEM holds only
those words. -/
theorem completionIsAFunctionOfTheSnapshot : Obligations.CompletionIsAFunctionOfTheSnapshot := by
  intro s s' hlat
  cases hv : validate s.lat with
  | some e =>
    have hv' : validate s'.lat = some e := hlat ▸ hv
    exact ⟨_, _, completeStep_of_invalid hv, completeStep_of_invalid hv', rfl, rfl, rfl, by simp⟩
  | none =>
    obtain ⟨i, hd⟩ := exists_decode_of_valid hv
    have hv' : validate s'.lat = none := hlat ▸ hv
    have hd' : decode s'.lat.cmd = .ok i := hlat ▸ hd
    refine ⟨_, _, completeStep_of_valid hd hv, completeStep_of_valid hd' hv', ?_⟩
    simp only [State.succeed_busy, State.succeed_done, State.succeed_err, State.succeed_blkOut, State.succeed_rkCount,
      State.succeed_rkmem, true_and]
    intro i' hd'' _
    obtain rfl : i = i' := by simpa [hd] using hd''
    refine ⟨fun hi => executeOf_blkOut_congr hi hlat, fun hi => ?_⟩
    have hlen : (roundKeyWordsOf i s.lat).length ≤ 192 := length_roundKeyWordsOf_le i s.lat
    rw [executeOf_of_keySchedule hi s, executeOf_of_keySchedule hi s', ← hlat]
    refine ⟨rfl, fun n hn => ?_⟩
    rw [State.writeRoundKeys_rkCount] at hn
    rw [get_writeRoundKeys_of_lt_rkCount hlen hn, get_writeRoundKeys_of_lt_rkCount hlen hn]

/-- Settles O26: with nothing pending it is the completion step's turn, and an Idle core has none. -/
theorem nothingPendingMeansCompletionOrIdle : Obligations.NothingPendingMeansCompletionOrIdle := by
  refine fun s hin => ⟨fun hbusy => ?_, fun hidle => ?_⟩
  · obtain ⟨t, ht⟩ := exists_completeStep_eq_next s.popEvent
    obtain ⟨hidle, hdone, -⟩ := completeStep_status ht
    exact ⟨t, (step_of_completionDue hbusy (.inl hin)).trans ht, hidle, hdone⟩
  · rw [step_nil hin, completeIfBusy_of_idle hidle]

/-! ## Bus reads (R36, R276) -/

section
variable {s : State} {r : Reg}

theorem busRead_of_value {v : Word} (h : s.readReg r = some v) :
    s.busRead .bits32 r.offset = .next { s with replies := v :: s.replies } := by
  rw [busRead_wf (accessWf_offset r), regAt_offset, h]
  rfl

theorem busRead_of_no_value (h : s.readReg r = none) :
    s.busRead .bits32 r.offset = .next { s with replies := Config.draw s.draws :: s.replies, draws := s.draws + 1 } := by
  rw [busRead_wf (accessWf_offset r), regAt_offset, h]
  rfl

end

theorem DataWord.known_of_not_written {d : DataWord} (h : d.written = false) : d.known = none := by
  simp [DataWord.known, h]

section
variable {s : State} (hidle : s.busy = false)
include hidle

theorem readReg_blkOut_of_idle (j : Fin 4) : s.readReg (.blkOut j) = s.blkOut[j.val].known := by
  simp [State.readReg, hidle]

theorem readReg_rkmem_of_idle (i : Fin 256) : s.readReg (.rkmem i) = Memory.get s.rkmem i.val := by
  simp [State.readReg, hidle]

end

/-- R276, R36: an output has no value to read while a command is in progress, nor before it was written. -/
theorem readReg_blkOut_eq_none {s : State} {j : Fin 4} (h : s.busy = true ∨ s.blkOut[j.val].written = false) :
    s.readReg (.blkOut j) = none := by
  rcases h with hbusy | hunwritten
  · simp [State.readReg, hbusy]
  · simp [State.readReg, DataWord.known_of_not_written hunwritten]

theorem readReg_rkmem_eq_none {s : State} {i : Fin 256} (h : s.busy = true ∨ Memory.get s.rkmem i.val = none) :
    s.readReg (.rkmem i) = none := by
  rcases h with hbusy | hunwritten
  · simp [State.readReg, hbusy]
  · simp [State.readReg, hunwritten]

/-- Settles O9: whether each register has a value to read, and the reply either way. -/
theorem readsWhileBusyAndAfter : Obligations.ReadsWhileBusyAndAfter := by
  intro s
  refine ⟨⟨?_, ?_, ?_, ?_, ?_⟩, fun j => ⟨fun v hv => ?_, fun hn => ?_⟩, fun j => ⟨fun v hv => ?_, fun hn => ?_⟩,
    fun j => ⟨fun v hidle hv => ?_, fun hn => ?_⟩, fun i => ⟨fun v hidle hv => ?_, fun hn => ?_⟩⟩
  · exact busRead_of_value (r := .cmd) rfl
  · exact busRead_of_value (r := .status) rfl
  · exact busRead_of_value (r := .keyLen) rfl
  · exact busRead_of_value (r := .blkLen) rfl
  · exact busRead_of_value (r := .rkCount) rfl
  · exact busRead_of_value (r := .key j) (congrArg DataWord.known hv)
  · exact busRead_of_no_value (r := .key j) (DataWord.known_of_not_written hn)
  · exact busRead_of_value (r := .blkIn j) (congrArg DataWord.known hv)
  · exact busRead_of_no_value (r := .blkIn j) (DataWord.known_of_not_written hn)
  · exact busRead_of_value (r := .blkOut j) ((readReg_blkOut_of_idle hidle j).trans (congrArg DataWord.known hv))
  · exact busRead_of_no_value (r := .blkOut j) (readReg_blkOut_eq_none hn)
  · exact busRead_of_value (r := .rkmem i) ((readReg_rkmem_of_idle hidle i).trans hv)
  · exact busRead_of_no_value (r := .rkmem i) (readReg_rkmem_eq_none hn)

/-! ## The loop POLL (R92, R277) -/

theorem run_succ_of_step {s t : State} (h : step s = .next t) (n : Nat) :
    Sys2Proof.core.run (n + 1) s = Sys2Proof.core.run n t := by
  have hstep : Sys2Proof.core.step s = .next t := h
  simp only [Host.Core.run, hstep]

/-- R91: one script read of a register that has a value. -/
theorem step_scriptRead {s : State} {r : Reg} {v : Word} {es : List Event} (hin : s.inputs = scriptRead r :: es)
    (hv : s.readReg r = some v) : step s = .next { s with inputs := es, replies := v :: s.replies } := by
  rw [step_cons hin, scriptRead, perform, busRead_of_value ((readReg_inputs s r es).trans hv)]

/-- R35: STATUS while a command is in progress. -/
theorem statusWord_of_busy {s : State} (hbusy : s.busy = true) (hdone : s.done = false) (herr : s.err = 0) :
    s.statusWord = 0x00000001#32 := by
  rw [State.statusWord, hbusy, hdone, herr]
  decide

/-- `k` reads of STATUS while a command is in progress return BUSY = 1 and change nothing. -/
theorem run_statusReads_of_busy (k n : Nat) {s : State} {es : List Event} (hbusy : s.busy = true)
    (hdone : s.done = false) (herr : s.err = 0) (hin : s.inputs = List.replicate k (scriptRead .status) ++ es) :
    Sys2Proof.core.run (k + n) s = Sys2Proof.core.run n
      ({ s with inputs := es, replies := List.replicate k 0x00000001#32 ++ s.replies } : State) := by
  induction k generalizing s with
  | zero =>
    obtain rfl : s.inputs = es := hin
    rw [Nat.zero_add]
    rfl
  | succ k ih =>
    have hvalue : s.readReg .status = some 0x00000001#32 := congrArg some (statusWord_of_busy hbusy hdone herr)
    have hnext : s.inputs = scriptRead .status :: (List.replicate k (scriptRead .status) ++ es) := hin
    have hrest := ih (s := { s with
      inputs := List.replicate k (scriptRead .status) ++ es
      replies := 0x00000001#32 :: s.replies }) hbusy hdone herr rfl
    rw [Nat.succ_add, run_succ_of_step (step_scriptRead hnext hvalue) (k + n), hrest, List.replicate_succ',
      List.append_assoc]
    rfl

/-- Settles O25: after the completion step the one more read returns the STATUS that the completion step wrote. -/
theorem pollAfterAcceptanceTerminates : Obligations.PollAfterAcceptanceTerminates := by
  intro s k es hinv hbusy hin
  obtain ⟨hdone, herr⟩ := hinv.busy_clear hbusy
  rw [scriptPoll, List.append_assoc] at hin
  rw [run_statusReads_of_busy k 2 hbusy hdone herr hin]
  obtain ⟨t, hstep, hidle, hdone, -, -, htin, htreplies⟩ := completionWritesStatus
    { s with inputs := [.complete, scriptRead .status] ++ es, replies := List.replicate k 0x00000001#32 ++ s.replies }
    (scriptRead .status :: es) hbusy rfl
  have hlast : t.statusWord.getLsbD 0 = false := (statusWordLayout t 0).trans hidle
  rw [run_succ_of_step hstep 1, run_succ_of_step (step_scriptRead htin (v := t.statusWord) rfl) 0]
  exact ⟨_, t.statusWord, rfl, hidle, hdone, rfl, congrArg (t.statusWord :: ·) htreplies, hlast⟩

end Sys2Proof.Machine
end

section
/-! The operand writes of a call (45_facade.md section 2, R279, R325): in whatever order, each register ends with the value
written to it. -/

namespace Sys2Proof.Machine

/-! ## Writes one after another -/

/-- The registers after a sequence of writes. -/
def State.writeRegs (s : State) (ws : List (Reg × Word)) : State := ws.foldl (fun s w => s.writeReg w.1 w.2) s

theorem writeRegs_cons (s : State) (w : Reg × Word) (ws : List (Reg × Word)) :
    s.writeRegs (w :: ws) = (s.writeReg w.1 w.2).writeRegs ws := rfl

section
variable {α : Type} {get : State → α} {r : Reg} (hother : ∀ (s : State) r' v, r' ≠ r → get (s.writeReg r' v) = get s)
include hother

/-- What writes to other registers leave alone, a sequence of them does. -/
theorem get_writeRegs_of_not_mem {ws : List (Reg × Word)} (h : ∀ v, (r, v) ∉ ws) (s : State) :
    get (s.writeRegs ws) = get s := by
  induction ws generalizing s with
  | nil => rfl
  | cons w ws ih =>
    have hne : w.1 ≠ r := by
      rintro rfl
      exact h w.2 List.mem_cons_self
    rw [writeRegs_cons, ih (fun v hv => h v (List.mem_cons_of_mem w hv)), hother s w.1 w.2 hne]

/-- Where a sequence writes one value to a register and no other value, that value stands there at the end, wherever in the
sequence it is written. -/
theorem get_writeRegs_of_mem {val : Word → α} (hsame : ∀ (s : State) v, get (s.writeReg r v) = val v) {ws : List (Reg × Word)}
    {v : Word} (hmem : (r, v) ∈ ws) (huniq : ∀ v', (r, v') ∈ ws → v' = v) (s : State) :
    get (s.writeRegs ws) = val v := by
  induction ws generalizing s with
  | nil => cases hmem
  | cons w ws ih =>
    rw [writeRegs_cons]
    by_cases hlater : (r, v) ∈ ws
    · exact ih hlater (fun v' hv' => huniq v' (List.mem_cons_of_mem w hv')) _
    · have hlast : ∀ v', (r, v') ∉ ws := fun v' hv' =>
        hlater (huniq v' (List.mem_cons_of_mem w hv') ▸ hv')
      obtain rfl : (r, v) = w := (List.mem_cons.mp hmem).resolve_right hlater
      rw [get_writeRegs_of_not_mem hother hlast, hsame]

/-- The same for a register that the sequence may or may not write: `x` is what it writes there. -/
theorem get_writeRegs {val : Word → α} (hsame : ∀ (s : State) v, get (s.writeReg r v) = val v) {ws : List (Reg × Word)}
    {x : Option Word} (hx : ∀ v, (r, v) ∈ ws ↔ x = some v) (s : State) :
    get (s.writeRegs ws) = (x.map val).getD (get s) := by
  cases x with
  | none => exact get_writeRegs_of_not_mem hother (fun v hv => by simpa using (hx v).mp hv) s
  | some v =>
    exact get_writeRegs_of_mem hother hsame ((hx v).mpr rfl) (fun v' hv' => by simpa using ((hx v').mp hv').symm) s

end

/-- Writes to registers other than CMD change the input registers alone. -/
theorem writeRegs_frame {ws : List (Reg × Word)} (h : ∀ v, (Reg.cmd, v) ∉ ws) (s : State) :
    s.writeRegs ws = { s with
      keyLen := (s.writeRegs ws).keyLen
      blkLen := (s.writeRegs ws).blkLen
      key := (s.writeRegs ws).key
      blkIn := (s.writeRegs ws).blkIn } := by
  induction ws generalizing s with
  | nil => rfl
  | cons w ws ih =>
    rcases writeReg_cases s w.1 w.2 with ⟨hcmd, -, -⟩ | ⟨kl, bl, k, b, hw⟩
    · exact absurd List.mem_cons_self (hcmd ▸ h w.2)
    · rw [writeRegs_cons, hw]
      exact ih (fun v hv => h v (List.mem_cons_of_mem w hv)) _

/-! ## The writes of a call (R279) -/

/-- Words written to a bank of registers from its first one on. -/
def bankWrites {n : Nat} (bank : Fin n → Reg) (words : List Word) : List (Reg × Word) := (List.ofFn bank).zip words

theorem mem_bankWrites {n : Nat} {bank : Fin n → Reg} {words : List Word} {r : Reg} {v : Word} :
    (r, v) ∈ bankWrites bank words ↔ ∃ j : Fin n, bank j = r ∧ words[j.val]? = some v := by
  simp only [bankWrites, List.mem_iff_getElem?, List.getElem?_zip_eq_some, List.getElem?_ofFn]
  constructor
  · rintro ⟨j, hr, hv⟩
    split_ifs at hr with hj
    exact ⟨⟨j, hj⟩, by simpa using hr, hv⟩
  · rintro ⟨j, rfl, hv⟩
    exact ⟨j.val, by simp, hv⟩

/-- The script of a bank, whose registers lie one word apart (R20). -/
theorem map_scriptWrite_bankWrites {n base : Nat} {bank : Fin n → Reg}
    (hoffset : ∀ j, (bank j).offset = base + 4 * j.val) {words : List Word} (hlen : words.length ≤ n) :
    (bankWrites bank words).map (fun w => scriptWrite w.1 w.2) =
      words.mapIdx fun j w => .write .bits32 (base + 4 * j) w := by
  apply List.ext_getElem
  · simpa [bankWrites] using hlen
  · intro j h1 h2
    simp [bankWrites, scriptWrite, hoffset]

/-- The writes of `scriptOperands`, register by register. -/
def operandWrites (i : Instr) (key blk : List Word) (klen blen : Word) : List (Reg × Word) :=
  bankWrites Reg.key key ++ [(.keyLen, klen)] ++
    if i.opField = 3 then [] else bankWrites Reg.blkIn blk ++ [(.blkLen, blen)]

section
variable {i : Instr} {key blk : List Word} {klen blen v : Word}

theorem scriptOperands_eq_map (hkey : key.length ≤ 8) (hblk : blk.length ≤ 4) :
    scriptOperands i key blk klen blen = (operandWrites i key blk klen blen).map fun w => scriptWrite w.1 w.2 := by
  rw [scriptOperands, operandWrites, ← map_scriptWrite_bankWrites (bank := Reg.key) (fun _ => rfl) hkey,
    ← map_scriptWrite_bankWrites (bank := Reg.blkIn) (fun _ => rfl) hblk]
  split_ifs <;> simp

theorem cmd_not_mem_operandWrites : (Reg.cmd, v) ∉ operandWrites i key blk klen blen := by
  unfold operandWrites
  split_ifs <;> simp [mem_bankWrites]

theorem key_mem_operandWrites {j : Fin 8} :
    (Reg.key j, v) ∈ operandWrites i key blk klen blen ↔ key[j.val]? = some v := by
  unfold operandWrites
  split_ifs <;> simp [mem_bankWrites]

theorem keyLen_mem_operandWrites : (Reg.keyLen, v) ∈ operandWrites i key blk klen blen ↔ some klen = some v := by
  unfold operandWrites
  split_ifs <;> simp [mem_bankWrites, eq_comm]

theorem blkIn_mem_operandWrites {j : Fin 4} :
    (Reg.blkIn j, v) ∈ operandWrites i key blk klen blen ↔ (if i.opField = 3 then none else blk[j.val]?) = some v := by
  unfold operandWrites
  split_ifs <;> simp [mem_bankWrites]

theorem blkLen_mem_operandWrites :
    (Reg.blkLen, v) ∈ operandWrites i key blk klen blen ↔ (if i.opField = 3 then none else some blen) = some v := by
  unfold operandWrites
  split_ifs <;> simp [mem_bankWrites, eq_comm]

end

/-! ## What a write leaves in the length registers -/

theorem writeReg_keyLen_of_ne (s : State) (r : Reg) (v : Word) (h : r ≠ .keyLen) : (s.writeReg r v).keyLen = s.keyLen := by
  cases r with
  | keyLen => exact absurd rfl h
  | cmd => simp only [State.writeReg]; split <;> rfl
  | _ => rfl

theorem writeReg_blkLen_of_ne (s : State) (r : Reg) (v : Word) (h : r ≠ .blkLen) : (s.writeReg r v).blkLen = s.blkLen := by
  cases r with
  | blkLen => exact absurd rfl h
  | cmd => simp only [State.writeReg]; split <;> rfl
  | _ => rfl

theorem writeReg_keyLen_same (s : State) (v : Word) : (s.writeReg .keyLen v).keyLen = v.extractLsb' 0 16 :=
  BitVec.setWidth_eq_extractLsb' (x := v) (by decide)

theorem writeReg_blkLen_same (s : State) (v : Word) : (s.writeReg .blkLen v).blkLen = v.extractLsb' 0 16 :=
  BitVec.setWidth_eq_extractLsb' (x := v) (by decide)

/-! ## The input registers after the writes of a call, in any order -/

section
variable {i : Instr} {key blk : List Word} {klen blen : Word} {ws : List (Reg × Word)}
  (hws : ws.Perm (operandWrites i key blk klen blen)) (s : State)
include hws

theorem keyLen_writeRegs : (s.writeRegs ws).keyLen = klen.extractLsb' 0 16 :=
  get_writeRegs writeReg_keyLen_of_ne writeReg_keyLen_same (fun _ => hws.mem_iff.trans keyLen_mem_operandWrites) s

theorem key_writeRegs (j : Fin 8) :
    (s.writeRegs ws).key[j.val] = (key[j.val]?.map DataWord.of).getD s.key[j.val] :=
  get_writeRegs (get := fun s => s.key[j.val]) (fun s _ v h => writeReg_key_of_ne h s v)
    (fun s v => writeReg_key_same s j v) (fun _ => hws.mem_iff.trans key_mem_operandWrites) s

theorem blkLen_writeRegs : (s.writeRegs ws).blkLen = if i.opField = 3 then s.blkLen else blen.extractLsb' 0 16 := by
  rw [get_writeRegs writeReg_blkLen_of_ne writeReg_blkLen_same (fun _ => hws.mem_iff.trans blkLen_mem_operandWrites) s]
  split_ifs <;> rfl

theorem blkIn_writeRegs (j : Fin 4) : (s.writeRegs ws).blkIn[j.val] =
    if i.opField = 3 then s.blkIn[j.val] else (blk[j.val]?.map DataWord.of).getD s.blkIn[j.val] := by
  rw [get_writeRegs (get := fun s => s.blkIn[j.val]) (fun s _ v h => writeReg_blkIn_of_ne h s v)
    (fun s v => writeReg_blkIn_same s j v) (fun _ => hws.mem_iff.trans blkIn_mem_operandWrites) s]
  split_ifs <;> rfl

end

/-- Settles O60: the writes go to different registers, so what each register holds at the end does not depend on their
order. -/
theorem operandWritesOfACallInAnyOrder : Obligations.OperandWritesOfACallInAnyOrder := by
  intro i s key blk klen blen ops es hkey hblk hops hin
  rw [scriptOperands_eq_map hkey hblk] at hops
  obtain ⟨ws, rfl, hws⟩ := (congrFun₂ (List.eq_map_comp_perm _) _ _).mpr hops
  have hframe := writeRegs_frame (ws := ws) (fun v hv => cmd_not_mem_operandWrites (hws.mem_iff.mp hv)) s
  rw [List.length_map]
  refine ⟨_, run_scriptWrites ws s es hin, ?_, keyLen_writeRegs hws s, key_writeRegs hws s, fun hks => ⟨?_, ?_⟩,
    fun hks => ⟨?_, fun j => ?_⟩⟩
  · exact congrArg (fun u : State => { u with inputs := es }) hframe
  · exact (blkLen_writeRegs hws s).trans (if_pos hks)
  · exact Vector.ext fun j hj => (blkIn_writeRegs hws s ⟨j, hj⟩).trans (if_pos hks)
  · exact (blkLen_writeRegs hws s).trans (if_neg hks)
  · exact (blkIn_writeRegs hws s j).trans (if_neg hks)

end Sys2Proof.Machine
end

section
/-! The round trip of a block (45_facade.md section 2, R280): the DEC of what an ENC left in OUTREG gives the block back. -/

namespace Sys2Proof.Machine

/-! ## The words of OUTREG (R31, R87) -/

/-- Word `j` of OUTREG, counted from the most significant one (R31). -/
def outWord (v : BitVec 128) (j : Fin 4) : Word := v.extractLsb' (96 - 32 * j.val) 32

theorem outWord_join32 (q : Quad Word) (j : Fin 4) : outWord (join32 q) j = q.get j := by
  have hpos : 96 - 32 * j.val = (3 - j.val) * 32 := by omega
  rw [outWord, hpos, ← get_split4, split4_join32]

theorem eq_of_outWord_eq {v v' : BitVec 128} (h : ∀ j, outWord v j = outWord v' j) : v = v' := by
  have hwords : split4 32 v = split4 32 v' := Quad.mk.injEq .. ▸ ⟨h 0, h 1, h 2, h 3⟩
  rw [← join32_split4 v, hwords, join32_split4]

theorem exec_outWord {i : Instr} {s : State} {W : Nat} {R : BitVec W} (hv : validateLengths i s.lat = none)
    (hR : resultOf i s.lat = some ⟨W, R⟩) :
    ∃ t, exec i s = .next t ∧ t.resultReady ∧ ∀ j : Fin 4, t.readReg (.blkOut j) = some (outWord (placeResult R) j) := by
  obtain ⟨t, hexec, hready, ⟨h0, h1, h2, h3⟩, -⟩ := exec_deliversOut hv hR
  refine ⟨t, hexec, hready, fun j => ?_⟩
  fin_cases j
  · exact h0
  · exact h1
  · exact h2
  · exact h3

/-- The result stands in the upper `W` bits. -/
theorem getLsbD_placeResult {W : Nat} (R : BitVec W) {p : Nat} (hp : p < 128) :
    (placeResult R).getLsbD p = (decide (128 - W ≤ p) && R.getLsbD (p - (128 - W))) := by
  rw [placeResult, BitVec.getLsbD_shiftLeft, BitVec.getLsbD_setWidth]
  by_cases hlow : p < 128 - W
  · simp [hlow, Nat.not_le.mpr hlow]
  · simp [hlow, hp, Nat.not_lt.mp hlow, show p - (128 - W) < 128 by omega]

section
variable {W : Nat} (hle : W ≤ 128)
include hle

theorem extractLsb'_placeResult (R : BitVec W) : (placeResult R).extractLsb' (128 - W) W = R := by
  ext p hp
  rw [BitVec.getElem_extractLsb', getLsbD_placeResult R (by omega)]
  simp [BitVec.getLsbD_eq_getElem hp]

theorem outWord_placeResult_of_le (R : BitVec W) {j : Fin 4} (hj : W ≤ 32 * j.val) : outWord (placeResult R) j = 0 := by
  ext p hp
  rw [outWord, BitVec.getElem_extractLsb', getLsbD_placeResult R (by omega),
    decide_eq_false (show ¬128 - W ≤ 96 - 32 * j.val + p by omega)]
  simp

/-- R86, R87: a block operand of whole words, placed as a result, has the words of the block register. -/
theorem outWord_placeResult_blkOperand (hwords : W % 32 = 0) (lat : Latch) {j : Fin 4} (hj : 32 * j.val < W) :
    outWord (placeResult (blkOperand W lat)) j = lat.blk[j.val] := by
  have hreg : outWord lat.blkReg j = lat.blk[j.val] := by
    have hjoin : lat.blkReg = join32 ⟨lat.blk[0], lat.blk[1], lat.blk[2], lat.blk[3]⟩ := rfl
    rw [hjoin, outWord_join32]
    fin_cases j <;> rfl
  rw [← hreg]
  ext p hp
  rw [outWord, outWord, BitVec.getElem_extractLsb', BitVec.getElem_extractLsb', getLsbD_placeResult _ (by omega),
    blkOperand_eq_extractLsb' lat hle, BitVec.getLsbD_extractLsb']
  have hhigh : 128 - W ≤ 96 - 32 * j.val + p := by omega
  have hbelow : 96 - 32 * j.val + p - (128 - W) < W := by omega
  simp [hhigh, hbelow]

/-- A block register whose first `W` bits are the words of a result gives the result as block operand. -/
theorem blkOperand_eq_of_outWord (hwords : W % 32 = 0) {R : BitVec W} {lat : Latch}
    (h : ∀ j : Fin 4, 32 * j.val < W → outWord (placeResult R) j = lat.blk[j.val]) : blkOperand W lat = R := by
  have hplaced : placeResult (blkOperand W lat) = placeResult R := eq_of_outWord_eq fun j => by
    rcases Nat.lt_or_ge (32 * j.val) W with hj | hj
    · rw [outWord_placeResult_blkOperand hle hwords lat hj, h j hj]
    · rw [outWord_placeResult_of_le hle _ hj, outWord_placeResult_of_le hle _ hj]
  rw [← extractLsb'_placeResult hle (blkOperand W lat), hplaced, extractLsb'_placeResult hle]

end

/-! ## The lengths of a pair of commands (R291, R292) -/

theorem validateLengths_eq_none_iff {i : Instr} {lat : Latch} :
    validateLengths i lat = none ↔ blockLengthOk i lat = true ∧ keyLengthOk i lat = true := by
  by_cases hblk : blockLengthOk i lat = true <;> by_cases hkey : keyLengthOk i lat = true <;>
    simp [validateLengths, hblk, hkey]

theorem blen_of_valid {i : Instr} {lat : Latch} {W : Nat} (hW : blockLengths i = some [W])
    (hv : validateLengths i lat = none) : lat.blen.toNat = W := by
  simpa [blockLengthOk, hW] using (validateLengths_eq_none_iff.mp hv).1

theorem klen_of_valid {i : Instr} {lat : Latch} (hv : validateLengths i lat = none) :
    lat.klen.toNat ∈ keyLengths i := by
  simpa [keyLengthOk] using (validateLengths_eq_none_iff.mp hv).2

theorem blockLengthOk_congr {i i' : Instr} {lat lat' : Latch} (hblk : blockLengths i = blockLengths i')
    (hblen : lat.blen = lat'.blen) : blockLengthOk i lat = blockLengthOk i' lat' := by
  rw [blockLengthOk, blockLengthOk, hblk, hblen]

theorem keyLengthOk_congr {i i' : Instr} {lat lat' : Latch} (hkey : keyLengths i = keyLengths i')
    (hklen : lat.klen = lat'.klen) : keyLengthOk i lat = keyLengthOk i' lat' := by
  rw [keyLengthOk, keyLengthOk, hkey, hklen]

/-- Two commands that support the same lengths find the same snapshots valid, so far as the lengths go. -/
theorem validateLengths_congr {i i' : Instr} {lat lat' : Latch} (hblk : blockLengths i = blockLengths i')
    (hkey : keyLengths i = keyLengths i') (hblen : lat.blen = lat'.blen) (hklen : lat.klen = lat'.klen) :
    validateLengths i lat = validateLengths i' lat' := by
  rw [validateLengths, validateLengths, blockLengthOk_congr hblk hblen, keyLengthOk_congr hkey hklen]

theorem keyOperand_congr {lat lat' : Latch} (h : lat.key = lat'.key) (L : Nat) :
    keyOperand L lat = keyOperand L lat' := by
  rw [keyOperand, keyOperand, h]

/-! ## The round trip -/

/-- An ENC and a DEC command for blocks of `W` bits, whole words, that support the same lengths, and whose second computes
under the same key the first one's block operand from the first one's result. -/
structure InversePair (enc dec : Instr) (W : Nat) : Prop where
  le : W ≤ 128
  words : W % 32 = 0
  encLen : blockLengths enc = some [W]
  decLen : blockLengths dec = some [W]
  keyLen : keyLengths dec = keyLengths enc
  undo : ∀ {lat lat' : Latch}, validateLengths enc lat = none → lat'.key = lat.key → lat'.klen = lat.klen →
    ∃ R, resultOf enc lat = some ⟨W, R⟩ ∧
      (blkOperand W lat' = R → resultOf dec lat' = some ⟨W, blkOperand W lat⟩)

theorem inversePair_aes : InversePair .aesEnc .aesDec 128 where
  le := le_rfl
  words := rfl
  encLen := rfl
  decLen := rfl
  keyLen := rfl
  undo _ hkey _ := ⟨_, rfl, fun hoperand => by
    rw [resultOf, hoperand, keyOperand_congr hkey, aesDecryptInvertsEncrypt _ _ _ (by decide)]⟩

theorem inversePair_present : InversePair .presentEnc .presentDec 64 where
  le := by decide
  words := rfl
  encLen := rfl
  decLen := rfl
  keyLen := rfl
  undo _ hkey _ := ⟨_, rfl, fun hoperand => by
    rw [resultOf, hoperand, keyOperand_congr hkey, presentDecryptInvertsEncrypt]⟩

theorem inversePair_lea : InversePair .leaEnc .leaDec 128 where
  le := le_rfl
  words := rfl
  encLen := rfl
  decLen := rfl
  keyLen := rfl
  undo _ hkey hklen := ⟨_, rfl, fun hoperand => by
    rw [resultOf, hoperand, keyOperand_congr hkey, hklen, leaDecrypt_leaEncrypt]⟩

theorem inversePair_piccolo : InversePair .piccoloEnc .piccoloDec 64 where
  le := by decide
  words := rfl
  encLen := rfl
  decLen := rfl
  keyLen := rfl
  undo {lat _} hv hkey hklen := ⟨_, rfl, fun hoperand => by
    have hlen : lat.klen.toNat = 80 ∨ lat.klen.toNat = 128 := by simpa [keyLengths] using klen_of_valid hv
    rw [resultOf, hoperand, keyOperand_congr hkey, hklen, piccoloDecryptInvertsEncrypt _ _ _ hlen]⟩

/-- R280 for one pair of commands. -/
theorem exec_roundTrip {enc dec : Instr} {W : Nat} (hpair : InversePair enc dec W) {s s' t : State}
    (hv : validateLengths enc s.lat = none) (hexec : exec enc s = .next t) (hkey : s'.lat.key = s.lat.key)
    (hklen : s'.lat.klen = s.lat.klen) (hblen : s'.lat.blen = s.lat.blen)
    (hblk : ∀ j : Fin 4, 32 * j.val < s.lat.blen.toNat → t.readReg (.blkOut j) = some s'.lat.blk[j.val]) :
    ∃ t', exec dec s' = .next t' ∧ t'.resultReady ∧
      ∀ j : Fin 4, t'.readReg (.blkOut j) = some (if 32 * j.val < s.lat.blen.toNat then s.lat.blk[j.val] else 0) := by
  obtain ⟨hle, hwords, hencLen, hdecLen, hkeyLen, hundo⟩ := hpair
  obtain ⟨R, hR, hback⟩ := hundo hv hkey hklen
  rw [blen_of_valid hencLen hv] at hblk ⊢
  have hoperand : blkOperand W s'.lat = R := by
    obtain ⟨t₁, hexec₁, -, hout⟩ := exec_outWord hv hR
    obtain rfl : t₁ = t := by simpa [hexec₁] using hexec
    exact blkOperand_eq_of_outWord hle hwords fun j hj => by simpa [hout j] using hblk j hj
  have hv' : validateLengths dec s'.lat = none :=
    (validateLengths_congr (hdecLen.trans hencLen.symm) hkeyLen hblen hklen).trans hv
  obtain ⟨t', hexec', hready, hout⟩ := exec_outWord hv' (hback hoperand)
  refine ⟨t', hexec', hready, fun j => ?_⟩
  rw [hout j]
  split_ifs with hj
  · rw [outWord_placeResult_blkOperand hle hwords s.lat hj]
  · rw [outWord_placeResult_of_le hle _ (Nat.not_lt.mp hj)]

/-- Settles O59: the commands of each cipher are such a pair. -/
theorem encryptThenDecryptRestoresTheBlock : Obligations.EncryptThenDecryptRestoresTheBlock := by
  intro enc dec s s' t hcipher hv hexec hkey hklen hblen hblk
  have hpair : ∃ W, InversePair enc dec W := by
    simp only [List.mem_cons, List.not_mem_nil, or_false, Prod.mk.injEq] at hcipher
    rcases hcipher with ⟨rfl, rfl⟩ | ⟨rfl, rfl⟩ | ⟨rfl, rfl⟩ | ⟨rfl, rfl⟩
    · exact ⟨_, inversePair_aes⟩
    · exact ⟨_, inversePair_present⟩
    · exact ⟨_, inversePair_lea⟩
    · exact ⟨_, inversePair_piccolo⟩
  obtain ⟨W, hpair⟩ := hpair
  exact exec_roundTrip hpair hv hexec hkey hklen hblen hblk

end Sys2Proof.Machine
end


section
/-! Exceptional conditions: which lengths a command supports, which check of validation fails first, and what a command that
fails validation does (R291 to R293). -/

namespace Sys2Proof.Machine

/-! ## Which lengths pass (R291, R292) -/

/-- R292: the commands that do not check BLK_LEN are the KS commands. -/
theorem blockLengths_eq_none_iff (i : Instr) : blockLengths i = none ↔ i.opField = 3 := by
  cases i <;> simp [blockLengths, Instr.opField]

theorem blockLengthOk_iff_keySchedule_or_mem {i : Instr} {lat : Latch} :
    blockLengthOk i lat = true ↔ i.opField = 3 ∨ ∃ ls, blockLengths i = some ls ∧ lat.blen.toNat ∈ ls := by
  rw [← blockLengths_eq_none_iff, blockLengthOk]
  cases blockLengths i with
  | none => simp
  | some ls => simp

theorem keyLengthOk_iff_mem {i : Instr} {lat : Latch} :
    keyLengthOk i lat = true ↔ lat.klen.toNat ∈ keyLengths i :=
  List.contains_iff_mem

/-! ## The obligations -/

/-- Settles O18: the table is read off; of a word that decodes, the block length fails exactly when the command checks it and
its list lacks it, and the key length is looked at only after that. -/
theorem supportedLengthsAndFirstFailingCheck : Obligations.SupportedLengthsAndFirstFailingCheck := by
  refine ⟨by decide, fun lat => ⟨fun ⟨_, hd⟩ => validate_of_error hd, fun i hd => ?_⟩⟩
  rw [validate_of_ok hd]
  refine ⟨fun ⟨hchecked, hblen⟩ => validateLengths_of_badBlock ?_, fun hblen => ?_⟩
  · intro hok
    rcases blockLengthOk_iff_keySchedule_or_mem.mp hok with hks | ⟨ls, hls, hmem⟩
    · exact hchecked hks
    · exact hblen ls hls hmem
  · have hok : blockLengthOk i lat = true := blockLengthOk_iff_keySchedule_or_mem.mpr hblen
    exact ⟨fun hklen => validateLengths_of_badKey hok (mt keyLengthOk_iff_mem.mp hklen),
      fun hklen => validateLengths_of_ok hok (keyLengthOk_iff_mem.mpr hklen)⟩

/-- Settles O20: the completion step of an invalid snapshot raises the error, which writes STATUS alone. -/
theorem failedCommandChangesOnlyStatus : Obligations.FailedCommandChangesOnlyStatus := by
  intro s e es hbusy hin hv
  have hraise : completeStep { s with inputs := es } = .next (State.raiseError { s with inputs := es } e) :=
    completeStep_of_invalid hv
  exact (step_complete hbusy hin).trans hraise

end Sys2Proof.Machine
end

section
/-! Reset (70_reset_and_hazards.md section 1): what each register reads as after it, from which states it comes, and what the
first command does when the lengths have not been written. -/

namespace Sys2Proof.Machine

/-! ## The registers after reset (R321, R36) -/

/-- KEY, BLK_IN and BLK_OUT are such vectors after reset. -/
theorem known_replicate_unwritten {n : Nat} (j : Fin n) :
    (Vector.replicate n DataWord.unwritten)[j.val].known = none := by
  rw [Vector.getElem_replicate, DataWord.known_unwritten]

/-- Settles O28: a data register is not written after reset and RKMEM has no cell, so a read of either has no value. -/
theorem resetValues : Obligations.ResetValues := by
  refine ⟨⟨rfl, by decide, rfl, rfl, rfl⟩, fun r hr => ?_⟩
  have hnone : State.reset.readReg r = none := by
    rcases hr with ⟨j, rfl⟩ | ⟨j, rfl⟩ | ⟨j, rfl⟩ | ⟨i, rfl⟩
    · exact known_replicate_unwritten j
    · exact known_replicate_unwritten j
    · exact (readReg_blkOut_of_idle rfl j).trans (known_replicate_unwritten j)
    · exact readReg_rkmem_of_idle rfl i
  exact ⟨hnone, busRead_of_no_value hnone⟩

/-! ## The reset step (R320, R322) -/

/-- The pending events, the host's record and the draw counter, which reset keeps, do not matter to a register read. -/
theorem readReg_resetCore (s : State) (r : Reg) : s.resetCore.readReg r = State.reset.readReg r := by
  cases r <;> rfl

theorem step_reset {s : State} {es : List Event} (hin : s.inputs = .reset :: es) :
    step s = .next s.popEvent.resetCore := by
  rw [step_cons hin, perform, State.popEvent_of_cons hin]

/-- Settles O29: a reset event is performed whatever else the state holds, and it is `State.resetCore`. -/
theorem resetFromAnyState : Obligations.ResetFromAnyState := by
  intro s es hin
  refine ⟨_, step_reset hin, rfl, rfl, rfl, readReg_resetCore _, ?_⟩
  rw [State.popEvent_of_cons hin, State.resetCore]

/-! ## The first command without lengths (R323) -/

/-- R292: no command supports a length of 0. -/
theorem zero_notMem_keyLengths (i : Instr) : 0 ∉ keyLengths i := by
  cases i <;> decide

theorem zero_notMem_blockLengths {i : Instr} {ls : List Nat} (h : blockLengths i = some ls) : 0 ∉ ls := by
  cases i <;> cases h <;> decide

/-- R291: of two lengths that are 0, a KS command looks at the key length alone; every other command looks at the block length
first. -/
theorem validateLengths_of_zero_lengths (i : Instr) {lat : Latch} (hklen : lat.klen = 0) (hblen : lat.blen = 0) :
    validateLengths i lat = some (if i.opField = 3 then .invalidKeyWidth else .invalidBlockWidth) := by
  split_ifs with hks
  · refine validateLengths_of_badKey (blockLengthOk_iff_keySchedule_or_mem.mpr (.inl hks)) ?_
    rw [keyLengthOk_iff_mem, hklen]
    exact zero_notMem_keyLengths i
  · refine validateLengths_of_badBlock ?_
    rw [blockLengthOk_iff_keySchedule_or_mem, hblen]
    rintro (h | ⟨ls, hls, hmem⟩)
    · exact hks h
    · exact zero_notMem_blockLengths hls hmem

/-- A command started in an Idle core fails at its completion with the error that validation finds in the snapshot. -/
theorem run_command_of_badLengths {s : State} {i : Instr} {e : ErrorKind} {es : List Event} (hidle : s.busy = false)
    (hin : s.inputs = .write .bits32 0x000 (encode i) :: .complete :: es)
    (hv : validateLengths i (s.snapshot (encode i)) = some e) :
    ∃ t, Sys2Proof.core.run 2 s = .next t ∧ t.reports e := by
  have hinvalid : validate (s.snapshot (encode i)) = some e :=
    (validate_of_ok (lat := s.snapshot (encode i)) (decode_encode i)).trans hv
  have hcomplete := failedCommandChangesOnlyStatus { s.accept (encode i) with inputs := .complete :: es } e es rfl rfl
    hinvalid
  rw [run_succ_of_step (step_accept hidle hin), run_succ_of_step hcomplete]
  exact ⟨_, rfl, rfl, rfl, rfl⟩

/-- Settles O30: both lengths are 0 after reset, and so they are in the snapshot. -/
theorem firstCommandWithoutLengthsFails : Obligations.FirstCommandWithoutLengthsFails := fun i _ =>
  run_command_of_badLengths rfl rfl (validateLengths_of_zero_lengths i rfl rfl)

end Sys2Proof.Machine
end
